-- ==== Sys2Proof/Word.lean ====
section
/-! DEFINITION. Word types and the bit-string operators of 00_scope.md R8 and R9. Every value is unsigned. -/

namespace Sys2Proof

/-- One byte: a buffer location, the CRC register, a check byte. -/
abbrev Byte := BitVec 8

/-- A 4-bit field: OP and ARG of a CTRL value (R65), WFAIL and the mask of ChecksumError (R25, R122). -/
abbrev Nibble := BitVec 4

/-- The 16-bit payload of a DataWord, and every register that holds one (R32 to R36, R89). -/
abbrev Payload := BitVec 16

/-- The 32-bit value of one host access (R46). -/
abbrev Word := BitVec 32

/-- A 5-bit word address of the host register space (R46). -/
abbrev Slot := BitVec 5

/-- R9: `concat(a, b)`, with `a` in the high bits. -/
abbrev concat {m n : Nat} (a : BitVec m) (b : BitVec n) : BitVec (m + n) := a ++ b

/-- R9: `zext_N(v)`. Where `n` is smaller than the width it keeps the low bits (R10, R40). -/
abbrev zext {w : Nat} (n : Nat) (v : BitVec w) : BitVec n := v.setWidth n

/-- R9: `sext_N(v)`, which no rule of the spec uses. -/
abbrev sext {w : Nat} (n : Nat) (v : BitVec w) : BitVec n := v.signExtend n

/-- R8: the field `v[lo + len - 1 : lo]`. -/
abbrev field {w : Nat} (v : BitVec w) (lo len : Nat) : BitVec len := v.extractLsb' lo len

end Sys2Proof
end

