-- ==== Sys2Proof/Config.lean ====
section
/-! DEFINITION. The implementation parameters of 00_scope.md R7. `CRC_XOROUT` is 0x00 and `CRC_REFLECT` is none: the loop of
R76 has neither a final XOR nor a reflection, so they need no constant.
The sizes `BUF_BYTES` = 12, `N_WORDS_MAX` = 4, `DW_BYTES` = 3, `MEAS_WORDS` = 4 and `PID_WORDS` = 2 stand as numerals in the
types and the meanings (`Fin 12`, `Fin 4`, …), each under a docstring that names its rule. -/

namespace Sys2Proof.Config

/-- `CRC_POLY` (R7, R87): x^8 + x^5 + x^4 + 1 with the x^8 term implicit. -/
def crcPoly : Byte := 0x31#8

/-- `CRC_INIT` (R7, R87). -/
def crcInit : Byte := 0xFF#8

/-- `EXPECTED_ID` (R7, R38): the spec's default. The operations that use it take it as an argument; this is the value the
machine is built with. DESIGN CHOICE, log entry 3: a claim that names this value holds for the default only (D26). -/
def expectedId : Word := 0x0901018A#32

/-- `DWD_BASE` (R7, R56, D3): OPEN. Where the register space sits in the host's address space. It has no body: a claim about
host addresses holds for every base. Log entry 4. -/
opaque dwdBase : Nat

/-- The width of the host's floating-point format (R113): OPEN, no body. Log entry 5. -/
opaque floatWidth : Nat

/-- `FLOAT_CONV` (R7, R113, D19): OPEN. The host's floating-point result for an exact rational, as a bit pattern. It has no
body: nothing is assumed of it but that it depends on the rational alone. Log entry 5. -/
opaque floatConv : Rat → BitVec floatWidth

end Sys2Proof.Config
end

