-- ==== Sys2Proof/Syntax.lean ====
section
/-! DEFINITION. The operations, one constructor per row of spec/opcode_table.json (30_encoding.md R66). -/

namespace Sys2Proof

/-- An operation with its ARG as the 4-bit number the encoding holds (R65, R71). Not every ARG is legal: `Instr.wellFormed`
says which are (R68). -/
inductive Instr where
  /-- NOP (R117). -/
  | nop
  /-- CRC_CALC n, a byte count (R78). -/
  | crcCalc (n : Nibble)
  /-- CRC_ACC n, a byte count (R81). -/
  | crcAcc (n : Nibble)
  /-- DW_ENCODE k, a word index (R84). -/
  | dwEncode (k : Nibble)
  /-- DW_CHECK k, a word index (R91). -/
  | dwCheck (k : Nibble)
  /-- FRAME_CHECK n, a word count (R96). -/
  | frameCheck (n : Nibble)
  /-- MEAS_EXTRACT (R102). -/
  | measExtract
  /-- PID_EXTRACT (R104). -/
  | pidExtract
  deriving DecidableEq, Repr

end Sys2Proof
end

