-- ==== Sys2Proof/WellFormed.lean ====
section
/-! DEFINITION. Which operands are legal (30_encoding.md R66, R68). -/

namespace Sys2Proof

/-- The operand lies in its operation's legal set (R66): at most `BUF_BYTES` = 12 bytes, a word index below `N_WORDS_MAX` = 4, a
frame of 1 to `N_WORDS_MAX` words. -/
def Instr.wellFormed : Instr → Bool
  | .nop => true
  | .crcCalc n => decide (n.toNat ≤ 12)
  | .crcAcc n => decide (n.toNat ≤ 12)
  | .dwEncode k => decide (k.toNat < 4)
  | .dwCheck k => decide (k.toNat < 4)
  | .frameCheck n => decide (1 ≤ n.toNat) && decide (n.toNat ≤ 4)
  | .measExtract => true
  | .pidExtract => true

end Sys2Proof
end

