-- ==== Sys2Proof/Decode.lean ====
section
/-! DEFINITION. The decoder of 30_encoding.md R70, the encoder of R66, and the mnemonics of R66 and R74. -/

namespace Sys2Proof

/-- Why a CTRL value is ILLEGAL (R67, R68, R69). The machine does the same for each (R123). -/
inductive DecodeError where
  /-- RSV is not 0 (R69). -/
  | reservedBits (rsv : BitVec 24)
  /-- OP is 0x8 to 0xF (R67). -/
  | reservedOpcode (op : Nibble)
  /-- OP is legal and ARG is outside its legal set (R68). -/
  | illegalOperand (op arg : Nibble)
  deriving DecidableEq, Repr

/-- OP, bits 3:0 (R65). -/
def opField (v : Word) : Nibble := field v 0 4

/-- ARG, bits 7:4 (R65). -/
def argField (v : Word) : Nibble := field v 4 4

/-- RSV, bits 31:8 (R65). -/
def rsvField (v : Word) : BitVec 24 := field v 8 24

/-- The case table of R70, for a value whose RSV is 0. -/
def decodeFields (op arg : Nibble) : Except DecodeError Instr :=
  match op.toNat with
  | 0 => if arg.toNat = 0 then .ok .nop else .error (.illegalOperand op arg)
  | 1 => if arg.toNat ≤ 12 then .ok (.crcCalc arg) else .error (.illegalOperand op arg)
  | 2 => if arg.toNat ≤ 12 then .ok (.crcAcc arg) else .error (.illegalOperand op arg)
  | 3 => if arg.toNat ≤ 3 then .ok (.dwEncode arg) else .error (.illegalOperand op arg)
  | 4 => if arg.toNat ≤ 3 then .ok (.dwCheck arg) else .error (.illegalOperand op arg)
  | 5 => if 1 ≤ arg.toNat ∧ arg.toNat ≤ 4 then .ok (.frameCheck arg) else .error (.illegalOperand op arg)
  | 6 => if arg.toNat = 0 then .ok .measExtract else .error (.illegalOperand op arg)
  | 7 => if arg.toNat = 0 then .ok .pidExtract else .error (.illegalOperand op arg)
  | _ => .error (.reservedOpcode op)

/-- R70: total over all 2^32 CTRL values. -/
def decode (v : Word) : Except DecodeError Instr :=
  if rsvField v = 0#24 then decodeFields (opField v) (argField v) else .error (.reservedBits (rsvField v))

/-- The OP value of an operation (R66). -/
def opcodeOf : Instr → Nibble
  | .nop => 0x0#4
  | .crcCalc _ => 0x1#4
  | .crcAcc _ => 0x2#4
  | .dwEncode _ => 0x3#4
  | .dwCheck _ => 0x4#4
  | .frameCheck _ => 0x5#4
  | .measExtract => 0x6#4
  | .pidExtract => 0x7#4

/-- The ARG value of an operation; 0 where the operation takes no operand (R66). -/
def operandOf : Instr → Nibble
  | .nop => 0x0#4
  | .crcCalc n => n
  | .crcAcc n => n
  | .dwEncode k => k
  | .dwCheck k => k
  | .frameCheck n => n
  | .measExtract => 0x0#4
  | .pidExtract => 0x0#4

/-- R66: the value written to CTRL is `zext_32(concat(ARG, OP))`. -/
def encode (i : Instr) : Word := zext 32 (concat (operandOf i) (opcodeOf i))

/-- R74: the assembler emits the word of an operation whose operand is in range, and refuses the others. -/
def assemble (i : Instr) : Option Word := if i.wellFormed then some (encode i) else none

/-- The mnemonics of R66. -/
def mnemonicOf : Instr → String
  | .nop => "NOP"
  | .crcCalc _ => "CRC_CALC"
  | .crcAcc _ => "CRC_ACC"
  | .dwEncode _ => "DW_ENCODE"
  | .dwCheck _ => "DW_CHECK"
  | .frameCheck _ => "FRAME_CHECK"
  | .measExtract => "MEAS_EXTRACT"
  | .pidExtract => "PID_EXTRACT"

/-- R74: whether the operation is written with an operand (ARG not fixed at 0). -/
def hasOperand : Instr → Bool
  | .nop => false
  | .crcCalc _ => true
  | .crcAcc _ => true
  | .dwEncode _ => true
  | .dwCheck _ => true
  | .frameCheck _ => true
  | .measExtract => false
  | .pidExtract => false

/-- R74: the written form, the mnemonic followed by ARG in decimal where ARG is not fixed at 0. -/
def writtenForm (i : Instr) : String :=
  if hasOperand i then mnemonicOf i ++ " " ++ toString (operandOf i).toNat else mnemonicOf i

/-- The instruction the decoder reads from a table word of `nbits` bits. An operation is one 32-bit CTRL value (R73), handed
over whole (R51), so no byte order is involved; a word that does not fit in 32 bits is no CTRL value. -/
def decodeTableWord (nbits w : Nat) : Option Instr :=
  if w % 2 ^ nbits < 2 ^ 32 then (decode (BitVec.ofNat 32 (w % 2 ^ nbits))).toOption else none

end Sys2Proof
end

