-- ==== Sys2Proof/Machine/Crc.lean ====
section
/-! DEFINITION. The CRC-8 functions (00_scope.md R13, 40_checksum.md R76). -/

namespace Sys2Proof.Machine

/-- One turn of R76's inner loop: shift left, and XOR the polynomial in where bit 7 fell out. -/
def crcShift (c : Byte) : Byte :=
  if c.msb then (c <<< 1) ^^^ Config.crcPoly else c <<< 1

/-- `n` turns of the inner loop. -/
def crcShifts : Nat → Byte → Byte
  | 0, c => c
  | n + 1, c => crcShifts n (crcShift c)

/-- One byte fed to the checksum register: XOR, then 8 turns. -/
def crcByte (c b : Byte) : Byte := crcShifts 8 (c ^^^ b)

/-- R76: the register after feeding a byte sequence, in increasing index order, from the value `c`. -/
def crc8From : Byte → List Byte → Byte
  | c, [] => c
  | c, b :: bs => crc8From (crcByte c b) bs

/-- R76: the checksum of a byte sequence, from 0xFF. -/
def crc8 (bs : List Byte) : Byte := crc8From Config.crcInit bs

end Sys2Proof.Machine
end

