-- ==== Sys2Proof/Machine/Flags.lean ====
section
/-! DEFINITION. The STATUS register's layout (10_state.md R25) and every value an outcome gives it (60_exceptions.md R125). -/

namespace Sys2Proof.Machine

/-- STATUS from its fields; bits 31:8 are 0 (R25, R31). -/
def statusWord (ok crcErr idMatch illegal : Bool) (wfail : Nibble) : Word :=
  zext 32 (concat wfail (concat (BitVec.ofBool illegal) (concat (BitVec.ofBool idMatch)
    (concat (BitVec.ofBool crcErr) (BitVec.ofBool ok)))))

/-- STATUS.OK, bit 0 (R26). -/
def statusOk (v : Word) : Bool := v.getLsbD 0

/-- STATUS.CRC_ERR, bit 1 (R27). -/
def statusCrcErr (v : Word) : Bool := v.getLsbD 1

/-- STATUS.ID_MATCH, bit 2 (R28). -/
def statusIdMatch (v : Word) : Bool := v.getLsbD 2

/-- STATUS.ILLEGAL, bit 3 (R29). -/
def statusIllegal (v : Word) : Bool := v.getLsbD 3

/-- STATUS.WFAIL, bits 7:4 (R30). -/
def statusWfail (v : Word) : Nibble := field v 4 4

/-- After CRC_CALC, CRC_ACC or DW_ENCODE: every field 0 (R125). -/
def statusDone : Word := statusWord false false false false 0x0#4

/-- After a check that found every checked word valid (R26, R125). -/
def statusAccepted : Word := statusWord true false false false 0x0#4

/-- After a PID_EXTRACT that accepted its frame (R104, R105). -/
def statusIdentified (idMatch : Bool) : Word := statusWord true false idMatch false 0x0#4

/-- After `raise ChecksumError(mask)` (R122). -/
def statusChecksumError (mask : Nibble) : Word := statusWord false true false false mask

/-- After `raise IllegalOperation()` (R123). -/
def statusIllegalOperation : Word := statusWord false false false true 0x0#4

end Sys2Proof.Machine
end

