-- ==== Sys2Proof/Machine/State.lean ====
section
/-! DEFINITION. The state of the DWD block (10_state.md R22, R41, R42), the host's inputs, and how a step can stop. -/

namespace Sys2Proof.Machine

/-- An index into the receive buffer: 0 to `BUF_BYTES` - 1 (R45). No other index exists (R47). -/
abbrev BufIndex := Fin 12

/-- A word index: 0 to `N_WORDS_MAX` - 1 (R14). -/
abbrev WordIndex := Fin 4

/-- The receive buffer B (R23, R45) as (index, byte) cells in the canonical form `Memory.wf`. -/
abbrev Memory := List Host.Cell

/-- What an index with no cell reads as: the reset contents of B (R42). -/
def Memory.unlisted : Byte := 0x00#8

/-- The canonical form: indices strictly rising and inside the buffer, and no cell that equals what an unlisted index reads
as. -/
def Memory.wf (m : Memory) : Bool :=
  decide (m.Pairwise (fun c d => c.1 < d.1)) && m.all (fun c => decide (c.1 < 12) && c.2 != Memory.unlisted)

/-- One input to the block (R17, R18, R136): a host access, or the platform asserting `rst`. -/
inductive HostInput where
  /-- A host write of a 32-bit value to a slot (R46). -/
  | write (slot : Slot) (value : Word)
  /-- A host read of a slot (R46). -/
  | read (slot : Slot)
  /-- The platform asserts `rst` (R136). -/
  | reset
  deriving DecidableEq, Repr

/-- The block's registers (R22), with the two fields of the model's own that hold a run's input and its observation. CTRL
is not stored (R39) and EXPID is a parameter (R38, R44). -/
structure State where
  /-- STATUS (R25). -/
  status : Word
  /-- CRC (R24). -/
  crc : Byte
  /-- The receive buffer B (R23). -/
  buf : Memory
  /-- WORD[0] to WORD[3] (R32). -/
  word : Vector Payload 4
  /-- CO2 (R33). -/
  co2 : Payload
  /-- TRAW (R34). -/
  traw : Payload
  /-- HRAW (R35). -/
  hraw : Payload
  /-- MSTAT (R36). -/
  mstat : Payload
  /-- PID (R37). -/
  pid : Word
  /-- MODEL's own (log entry 1): the inputs not yet performed, oldest first (R21, R44). -/
  pending : List HostInput
  /-- MODEL's own (log entry 2): the values the host's reads have returned, oldest first (R19). -/
  reads : List Word
  deriving DecidableEq, Repr

/-- The machine right after reset (R42, R136), with no input pending and nothing read yet. -/
def State.reset : State where
  status := 0x00000000#32
  crc := 0xFF#8
  buf := []
  word := #v[0x0000#16, 0x0000#16, 0x0000#16, 0x0000#16]
  co2 := 0x0000#16
  traw := 0x0000#16
  hraw := 0x0000#16
  mstat := 0x0000#16
  pid := 0x00000000#32
  pending := []
  reads := []

/-- Reasons the machine stops. It has none: the block has no trap, no access fault and no timeout (R124, R127), and its two
errors only write STATUS (R122, R123). -/
inductive Fault where
  deriving DecidableEq, Repr

/-- Reasons an instruction has no meaning in the model. -/
inductive Refusal where
  /-- Raised by `exec` for an operation without a meaning; no arm raises it. Safe: nothing can be proved of such a step. -/
  | notModelled (mnemonic : String)
  deriving DecidableEq, Repr

end Sys2Proof.Machine
end

