-- ==== Sys2Proof/Machine/Ops.lean ====
section
/-! DEFINITION. The named operations over the receive buffer and the registers, the DataWord functions, and raising an
error. -/

namespace Sys2Proof.Machine

/-- Puts a cell for `a` where it belongs among rising indices. -/
def Memory.insertCell (a : Nat) (v : Byte) : Memory → Memory
  | [] => [(a, v)]
  | c :: rest => if a < c.1 then (a, v) :: c :: rest else c :: Memory.insertCell a v rest

/-- The byte at a buffer index. -/
def Memory.readCell (a : Nat) : Memory → Byte
  | [] => Memory.unlisted
  | c :: rest => if c.1 = a then c.2 else Memory.readCell a rest

/-- B[i] (R23). -/
def Memory.read (m : Memory) (i : BufIndex) : Byte := m.readCell i.val

/-- `B[i] <- v`, keeping the canonical form: writing what an unlisted index reads as leaves no cell. -/
def Memory.write (m : Memory) (i : BufIndex) (v : Byte) : Memory :=
  if v = Memory.unlisted then m.filter (fun c => c.1 != i.val)
  else Memory.insertCell i.val v (m.filter (fun c => c.1 != i.val))

/-- B[i]. -/
def State.byte (s : State) (i : BufIndex) : Byte := s.buf.read i

/-- `MemWrite(i, 1, v)` (R11). -/
def State.setByte (s : State) (i : BufIndex) (v : Byte) : State := { s with buf := s.buf.write i v }

/-- `STATUS <- v`, the whole register (R25). -/
def State.setStatus (s : State) (v : Word) : State := { s with status := v }

/-- `CRC <- v` (R24). -/
def State.setCrc (s : State) (v : Byte) : State := { s with crc := v }

/-- The four WORD registers at once (R32). -/
def State.setWords (s : State) (w : Vector Payload 4) : State := { s with word := w }

/-- CO2, TRAW, HRAW and MSTAT (R33 to R36), which only MEAS_EXTRACT writes, together. -/
def State.setMeasurement (s : State) (co2 traw hraw mstat : Payload) : State :=
  { s with co2 := co2, traw := traw, hraw := hraw, mstat := mstat }

/-- `PID <- v` (R37). -/
def State.setPid (s : State) (v : Word) : State := { s with pid := v }

/-- The inputs still to be performed. -/
def State.setPending (s : State) (p : List HostInput) : State := { s with pending := p }

/-- The observation after one more host read (R19). -/
def State.pushRead (s : State) (v : Word) : State := { s with reads := s.reads ++ [v] }

/-- `MemRead(i, n)` (R11): n bytes as one big-endian number. The one place that fixes the byte order (R49). -/
def State.memRead (s : State) (i : Nat) : (n : Nat) → i + n ≤ 12 → BitVec (8 * n)
  | 0, _ => 0#0
  | n + 1, h => concat (s.memRead i n (by omega)) (s.byte ⟨i + n, by omega⟩)

/-- The bytes B[0] to B[n-1], in increasing index order, for n ≤ 12 (R71, R78). -/
def State.bytes (s : State) (n : Nat) : List Byte :=
  ((List.finRange 12).map s.byte).take n

/-- The buffer index of a word's payload high byte, 3k (R23). -/
def hiIndex (k : WordIndex) : BufIndex := ⟨3 * k.val, by omega⟩

/-- The buffer index of a word's payload low byte, 3k + 1 (R23). -/
def loIndex (k : WordIndex) : BufIndex := ⟨3 * k.val + 1, by omega⟩

/-- The buffer index of a word's check byte, 3k + 2 (R23). -/
def checkIndex (k : WordIndex) : BufIndex := ⟨3 * k.val + 2, by omega⟩

/-- `payload(k) = MemRead(3k, 2)` (R14, R89). -/
def State.payload (s : State) (k : WordIndex) : Payload := s.memRead (3 * k.val) 2 (by omega)

/-- `check(k) = MemRead(3k+2, 1)` (R14, R89). -/
def State.check (s : State) (k : WordIndex) : Byte := s.memRead (3 * k.val + 2) 1 (by omega)

/-- `crc8([B[3k], B[3k+1]])`: the check byte that makes word k valid, always seeded with 0xFF (R87, R88). -/
def State.payloadCrc (s : State) (k : WordIndex) : Byte := crc8 [s.byte (hiIndex k), s.byte (loIndex k)]

/-- `valid(k)` (R14, R89). -/
def State.valid (s : State) (k : WordIndex) : Bool := s.payloadCrc k == s.check k

/-- `fail[k]` of R96 for a frame of n words: lanes k ≥ n are masked off (R95). -/
def State.laneFails (s : State) (n : Nat) (k : WordIndex) : Bool := decide (k.val < n) && !s.valid k

/-- `fail` of R96: every one of words 0 to n-1 is checked (R95, R97), bit k for word k. -/
def State.failMask (s : State) (n : Nat) : Nibble :=
  concat (BitVec.ofBool (s.laneFails n 3)) (concat (BitVec.ofBool (s.laneFails n 2))
    (concat (BitVec.ofBool (s.laneFails n 1)) (BitVec.ofBool (s.laneFails n 0))))

/-- `for k in 0 .. n-1: WORD[k] <- payload(k)` (R96). -/
def State.writeWords (s : State) (n : Nat) : State :=
  s.setWords (Vector.ofFn fun k => if k.val < n then s.payload k else s.word[k])

/-- `WORD[k] <- payload(k)` for one word (R91). -/
def State.writeWord (s : State) (k : WordIndex) : State := s.setWords (s.word.set k.val (s.payload k))

/-- The errors of the block (R12). There is no other (R124). -/
inductive BlockError where
  /-- One or more checked words are invalid; bit k of the mask for word k (R122). -/
  | checksumError (mask : Nibble)
  /-- The CTRL value is not one of the 41 legal ones (R123). -/
  | illegalOperation
  deriving DecidableEq, Repr

/-- What an error leaves in STATUS (R122, R123). -/
def errorStatus : BlockError → Word
  | .checksumError mask => statusChecksumError mask
  | .illegalOperation => statusIllegalOperation

/-- `raise e` (R122, R123): STATUS is written and the operation ends. No register is saved, no control is transferred and
there is nothing to return from (R127, R129). -/
def raiseError (e : BlockError) (s : State) : State := s.setStatus (errorStatus e)

/-- The end of a checking operation (R91, R96, R102, R104): with an empty mask the accepted state, else ChecksumError raised
in the rejected state. -/
def concludeCheck (fail : Nibble) (accepted rejected : State) : State :=
  if fail = 0x0#4 then accepted else raiseError (.checksumError fail) rejected

end Sys2Proof.Machine
end

