-- ==== Sys2Proof/Machine/Operands.lean ====
section
/-! DEFINITION. The three operand forms (30_encoding.md R71) and what an operand outside its legal set does (R68). -/

namespace Sys2Proof.Machine

/-- What a step of the block answers. -/
abbrev StepOutcome := Host.Outcome State Fault Refusal

/-- ARG as a byte count n, 0 to 12 (CRC_CALC, CRC_ACC). -/
def byteCount (arg : Nibble) : Option Nat :=
  if arg.toNat ≤ 12 then some arg.toNat else none

/-- ARG as a word index k, 0 to 3 (DW_ENCODE, DW_CHECK). -/
def wordIndex (arg : Nibble) : Option WordIndex :=
  if h : arg.toNat < 4 then some ⟨arg.toNat, h⟩ else none

/-- ARG as a word count n, 1 to 4 (FRAME_CHECK). -/
def wordCount (arg : Nibble) : Option Nat :=
  if 1 ≤ arg.toNat ∧ arg.toNat ≤ 4 then some arg.toNat else none

/-- Performs an operation with its operand; where the operand is illegal, `raise IllegalOperation()` and nothing else
(R68, R126). -/
def withOperand {α : Type} (operand : Option α) (s : State) (op : α → State) : StepOutcome :=
  match operand with
  | none => .next (raiseError .illegalOperation s)
  | some a => .next (op a)

end Sys2Proof.Machine
end

