-- ==== Sys2Proof/Machine/Checksum.lean ====
section
/-! DEFINITION. Checksum operations (40_checksum.md). -/

namespace Sys2Proof.Machine

/-- CRC_CALC n (R78). -/
def execCrcCalc (n : Nibble) (s : State) : StepOutcome :=
  withOperand (byteCount n) s fun n => (s.setCrc (crc8 (s.bytes n))).setStatus statusDone

/-- CRC_ACC n (R81). -/
def execCrcAcc (n : Nibble) (s : State) : StepOutcome :=
  withOperand (byteCount n) s fun n => (s.setCrc (crc8From s.crc (s.bytes n))).setStatus statusDone

/-- DW_ENCODE k (R84). -/
def execDwEncode (k : Nibble) (s : State) : StepOutcome :=
  withOperand (wordIndex k) s fun k => (s.setByte (checkIndex k) (s.payloadCrc k)).setStatus statusDone

end Sys2Proof.Machine
end

