-- ==== Sys2Proof/Machine/Control.lean ====
section
/-! DEFINITION. Control operations (43_control.md). -/

namespace Sys2Proof.Machine

/-- NOP (R117): no effect, STATUS included. -/
def execNop (s : State) : StepOutcome := .next s

end Sys2Proof.Machine
end

