-- ==== Sys2Proof/Machine/DataWord.lean ====
section
/-! DEFINITION. DataWord frame decoder operations (41_dataword.md). -/

namespace Sys2Proof.Machine

/-- DW_CHECK k (R91): word k alone is checked, and the mask is `(1 << k)[3:0]` where it is invalid. -/
def execDwCheck (k : Nibble) (s : State) : StepOutcome :=
  withOperand (wordIndex k) s fun k =>
    concludeCheck (if s.valid k then 0x0#4 else 0x1#4 <<< k.val) ((s.writeWord k).setStatus statusAccepted) s

/-- FRAME_CHECK n (R96). -/
def execFrameCheck (n : Nibble) (s : State) : StepOutcome :=
  withOperand (wordCount n) s fun n =>
    concludeCheck (s.failMask n) ((s.writeWords n).setStatus statusAccepted) s

end Sys2Proof.Machine
end

