-- ==== Sys2Proof/Machine/Extract.lean ====
section
/-! DEFINITION. Measurement and product-ID extractors (42_extract.md). -/

namespace Sys2Proof.Machine

/-- The effect of an accepted MEAS_EXTRACT (R102); the word order is R103's. -/
def acceptMeasurement (s : State) : State :=
  ((s.writeWords 4).setMeasurement (s.payload 0) (s.payload 1) (s.payload 2) (s.payload 3)).setStatus
    statusAccepted

/-- MEAS_EXTRACT (R102). -/
def execMeasExtract (s : State) : StepOutcome :=
  .next (concludeCheck (s.failMask 4) (acceptMeasurement s) s)

/-- The product ID from bytes 0, 1, 3 and 4, B[0] most significant (R104, R107). -/
def State.assembledId (s : State) : Word :=
  concat (s.byte 0) (concat (s.byte 1) (concat (s.byte 3) (s.byte 4)))

/-- The effect of an accepted PID_EXTRACT with EXPID hard-wired to `expid` (R104, R105). -/
def acceptProductId (expid : Word) (s : State) : State :=
  ((s.writeWords 2).setPid s.assembledId).setStatus (statusIdentified (s.assembledId == expid))

/-- PID_EXTRACT of a block whose EXPID is hard-wired to `expid` (R104). PID is set to 0 before the error is raised, and that
write stands (R106, R122). -/
def extractProductId (expid : Word) (s : State) : State :=
  concludeCheck (s.failMask 2) (acceptProductId expid s) (s.setPid 0x00000000#32)

/-- PID_EXTRACT (R104), with the parameter EXPECTED_ID at its default (log entry 3). -/
def execPidExtract (s : State) : StepOutcome :=
  .next (extractProductId Config.expectedId s)

end Sys2Proof.Machine
end

