-- ==== Sys2Proof/Machine/Dispatch.lean ====
section
/-! DEFINITION. One arm per operation. -/

namespace Sys2Proof.Machine

/-- The effect of one operation. -/
def exec (i : Instr) (s : State) : Host.Outcome State Fault Refusal :=
  match i with
  | .nop => Sys2Proof.Machine.execNop s
  | .crcCalc n => Sys2Proof.Machine.execCrcCalc n s
  | .crcAcc n => Sys2Proof.Machine.execCrcAcc n s
  | .dwEncode k => Sys2Proof.Machine.execDwEncode k s
  | .dwCheck k => Sys2Proof.Machine.execDwCheck k s
  | .frameCheck n => Sys2Proof.Machine.execFrameCheck n s
  | .measExtract => Sys2Proof.Machine.execMeasExtract s
  | .pidExtract => Sys2Proof.Machine.execPidExtract s

end Sys2Proof.Machine
end

