-- ==== Sys2Proof/Machine/RegisterMap.lean ====
section
/-! DEFINITION. The register map (10_state.md R22), the value a host read returns (R40), and the placement at DWD_BASE
(20_memory.md R56). -/

namespace Sys2Proof.Machine

/-- The registers by name (R22). -/
inductive Reg where
  /-- CTRL, write-only (R39). -/
  | ctrl
  /-- STATUS (R25). -/
  | status
  /-- CRC (R24). -/
  | crc
  /-- EXPID (R38). -/
  | expid
  /-- B[i] (R23). -/
  | b (i : BufIndex)
  /-- WORD[k] (R32). -/
  | word (k : WordIndex)
  /-- CO2 (R33). -/
  | co2
  /-- TRAW (R34). -/
  | traw
  /-- HRAW (R35). -/
  | hraw
  /-- MSTAT (R36). -/
  | mstat
  /-- PID (R37). -/
  | pid
  deriving DecidableEq, Repr

/-- The word address of a register (R22). -/
def slotOf : Reg → Slot
  | .ctrl => 0x00#5
  | .status => 0x01#5
  | .crc => 0x02#5
  | .expid => 0x03#5
  | .b i => BitVec.ofNat 5 (0x04 + i.val)
  | .word k => BitVec.ofNat 5 (0x10 + k.val)
  | .co2 => 0x14#5
  | .traw => 0x15#5
  | .hraw => 0x16#5
  | .mstat => 0x17#5
  | .pid => 0x18#5

/-- The register at a word address; none for the reserved addresses 0x19 to 0x1F (R22). -/
def regAt (a : Slot) : Option Reg :=
  if hb : 0x04 ≤ a.toNat ∧ a.toNat < 0x04 + 12 then some (.b ⟨a.toNat - 0x04, by omega⟩)
  else if hw : 0x10 ≤ a.toNat ∧ a.toNat < 0x10 + 4 then some (.word ⟨a.toNat - 0x10, by omega⟩)
  else match a.toNat with
    | 0x00 => some .ctrl
    | 0x01 => some .status
    | 0x02 => some .crc
    | 0x03 => some .expid
    | 0x14 => some .co2
    | 0x15 => some .traw
    | 0x16 => some .hraw
    | 0x17 => some .mstat
    | 0x18 => some .pid
    | _ => none

/-- The value of a register on the 32-bit bus, narrow ones zero-extended (R40), of a block whose EXPID is hard-wired to
`expid`. CTRL reads 0 (R39) and STATUS bits 31:8 read 0 (R31). -/
def regValue (expid : Word) (s : State) : Reg → Word
  | .ctrl => 0x00000000#32
  | .status => zext 32 (field s.status 0 8)
  | .crc => zext 32 s.crc
  | .expid => expid
  | .b i => zext 32 (s.byte i)
  | .word k => zext 32 s.word[k]
  | .co2 => zext 32 s.co2
  | .traw => zext 32 s.traw
  | .hraw => zext 32 s.hraw
  | .mstat => zext 32 s.mstat
  | .pid => s.pid

/-- The value a host read of a slot returns; a reserved address reads 0 (R22). EXPECTED_ID is at its default (log
entry 3). -/
def readValue (s : State) (a : Slot) : Word :=
  match regAt a with
  | some r => regValue Config.expectedId s r
  | none => 0x00000000#32

/-- The host address of a slot, as an offset from DWD_BASE (R56). -/
def hostAddress (base : Nat) (a : Slot) : Nat := base + a.toNat

/-- The slot a host address names, where it lies in the block's 32-slot window (R46, R56). -/
def slotAtHostAddress (base addr : Nat) : Option Slot :=
  if base ≤ addr ∧ addr < base + 32 then some (BitVec.ofNat 5 (addr - base)) else none

/-- The host address of a slot on this platform: `Config.dwdBase` is open (log entry 4). -/
def platformAddress (a : Slot) : Nat := hostAddress Config.dwdBase a

end Sys2Proof.Machine
end

