-- ==== Sys2Proof/Machine/HostPort.lean ====
section
/-! DEFINITION. What one host access, and one assertion of `rst`, does (10_state.md R39, R40; 20_memory.md R50, R54, R55;
30_encoding.md R64; 70_reset_and_hazards.md R136). -/

namespace Sys2Proof.Machine

/-- A host write of `v` to CTRL (R64): the operation `decode v`, or `raise IllegalOperation()` (R70, R123). -/
def issue (v : Word) (s : State) : StepOutcome :=
  match decode v with
  | .ok i => exec i s
  | .error _ => .next (raiseError .illegalOperation s)

/-- A host write to a register: CTRL issues an operation, B[i] keeps bits 7:0, every other register ignores it (R40). -/
def writeReg (r : Reg) (v : Word) (s : State) : StepOutcome :=
  match r with
  | .ctrl => issue v s
  | .b i => .next (s.setByte i (field v 0 8))
  | .status => .next s
  | .crc => .next s
  | .expid => .next s
  | .word _ => .next s
  | .co2 => .next s
  | .traw => .next s
  | .hraw => .next s
  | .mstat => .next s
  | .pid => .next s

/-- A host write to a slot; a reserved address ignores it (R40). -/
def writeSlot (a : Slot) (v : Word) (s : State) : StepOutcome :=
  match regAt a with
  | some r => writeReg r v s
  | none => .next s

/-- `rst` (R136): every register takes its value of R42. The inputs still to come and what the host has read are not the
block's (log entries 1 and 2). -/
def resetBlock (s : State) : State := { State.reset with pending := s.pending, reads := s.reads }

/-- One input, performed whole (R54, R55). A read has no effect but its returned value (R54). -/
def serve (x : HostInput) (s : State) : StepOutcome :=
  match x with
  | .write a v => writeSlot a v s
  | .read a => .next (s.pushRead (readValue s a))
  | .reset => .next (resetBlock s)

/-- The oldest pending input, performed in issue order (R57). With none pending nothing happens: the block does nothing on
its own (R41, R142; log entry 1). -/
def serveNext (s : State) : StepOutcome :=
  match s.pending with
  | [] => .next s
  | x :: rest => serve x (s.setPending rest)

/-- The inputs with the write of `v` to CTRL as the next one. -/
def State.withNextOperation (s : State) (v : Word) : State := s.setPending (.write 0x00#5 v :: s.pending)

end Sys2Proof.Machine
end

