-- ==== Sys2Proof/Machine/Step.lean ====
section
/-! DEFINITION. One step: one host access (00_scope.md R18). -/

namespace Sys2Proof.Machine

/-- One step: the oldest pending host input is performed. -/
def step (s : State) : Host.Outcome State Fault Refusal := serveNext s

/-- `s` with the host's next access the write of the operation word `w` to CTRL, so that the next step runs it (log
entry 6). -/
def State.withFetchWord (s : State) (nbits w : Nat) : State :=
  s.withNextOperation (BitVec.ofNat 32 (w % 2 ^ nbits))

end Sys2Proof.Machine
end

