-- ==== Sys2Proof/Machine/EarlyExit.lean ====
section
/-! DEFINITION. The other reading of "the instant" (41_dataword.md R97): a frame check that stops at the first invalid word.
It is no part of the machine; claims compare the machine with it. -/

namespace Sys2Proof.Machine

/-- The lowest invalid word among words k, k+1, … below n. -/
def State.firstFailing (s : State) (n : Nat) : Option WordIndex :=
  (List.finRange 4).find? fun k => s.laneFails n k

/-- The mask of a check that stops at the first invalid word: that word's bit alone. -/
def State.earlyMask (s : State) (n : Nat) : Nibble :=
  match s.firstFailing n with
  | none => 0x0#4
  | some k => 0x1#4 <<< k.val

/-- FRAME_CHECK n with early exit (R97). -/
def earlyFrameCheck (n : Nibble) (s : State) : StepOutcome :=
  withOperand (wordCount n) s fun n =>
    concludeCheck (s.earlyMask n) ((s.writeWords n).setStatus statusAccepted) s

end Sys2Proof.Machine
end

