-- ==== Sys2Proof/Machine/HostConversion.lean ====
section
/-! DEFINITION. The host's conversion of measurement words (42_extract.md R109 to R113), exact over the rationals. It is
normative for the host, not for the block's datapath. -/

namespace Sys2Proof.Machine

/-- `T(raw)` in degrees Celsius (R109). -/
def temperature (raw : Payload) : Rat := (raw.toNat : Rat) * 175 / 65536 - 45

/-- `H(raw)` in percent relative humidity, not clamped (R110). -/
def humidity (raw : Payload) : Rat := (raw.toNat : Rat) * 125 / 65536 - 6

/-- The CO2 concentration in ppm (R111). -/
def co2Ppm (raw : Payload) : Nat := raw.toNat

/-- The sensor's status word, uninterpreted (R112). -/
def sensorStatus (raw : Payload) : Payload := raw

/-- A host's floating-point temperature for its rounding `conv` of the exact value (R113). -/
def temperatureWith {α : Type} (conv : Rat → α) (raw : Payload) : α := conv (temperature raw)

/-- A host's floating-point humidity for its rounding `conv` of the exact value (R113). -/
def humidityWith {α : Type} (conv : Rat → α) (raw : Payload) : α := conv (humidity raw)

/-- What the host decodes from the measurement registers: R15's Measurement, with the exact values. -/
structure Measurement where
  /-- CO2 in ppm (R111). -/
  co2 : Nat
  /-- Temperature in degrees Celsius (R109). -/
  temperature : Rat
  /-- Relative humidity in percent (R110). -/
  humidity : Rat
  /-- Status bitmask (R112). -/
  status : Payload
  deriving DecidableEq

/-- The measurement the registers of a state stand for. -/
def State.measurement (s : State) : Measurement :=
  ⟨co2Ppm s.co2, Sys2Proof.Machine.temperature s.traw, Sys2Proof.Machine.humidity s.hraw, sensorStatus s.mstat⟩

/-- The host's floating-point temperature: FLOAT_CONV is open (R113, log entry 5). -/
def State.hostTemperature (s : State) : BitVec Config.floatWidth := temperatureWith Config.floatConv s.traw

/-- The host's floating-point humidity: FLOAT_CONV is open (R113, log entry 5). -/
def State.hostHumidity (s : State) : BitVec Config.floatWidth := humidityWith Config.floatConv s.hraw

end Sys2Proof.Machine
end

