-- ==== Sys2Proof/Machine/HostSyntax.lean ====
section
/-! DEFINITION. The host-sequence syntax and its pseudo-operations (30_encoding.md R74, R75), as a translation of lines to
host accesses. -/

namespace Sys2Proof.Machine

/-- One line of a host program (R75). -/
inductive HostLine where
  /-- `WR <reg>, <value>`. -/
  | wr (r : Reg) (value : Word)
  /-- `RD <reg> -> <value>`; the value is the one the rules give. -/
  | rd (r : Reg) (expected : Word)
  /-- `OP <operation>`. -/
  | op (i : Instr)
  /-- `LOADW k, hi, lo, c`. -/
  | loadw (k : WordIndex) (hi lo c : Byte)
  /-- `LOADB i, b0, b1, …`. -/
  | loadb (i : BufIndex) (bytes : List Byte)
  /-- `GENW k, hi, lo`. -/
  | genw (k : WordIndex) (hi lo : Byte)
  /-- `CRC8 n`, an alias of `OP CRC_CALC n`. -/
  | crc8 (n : Nibble)
  deriving DecidableEq, Repr

/-- `WR B[i], v`. -/
def writeB (i : BufIndex) (v : Byte) : HostInput := .write (slotOf (.b i)) (zext 32 v)

/-- `OP <operation>`: `WR CTRL, <encoding of operation>`; an operand outside its range is refused (R74). -/
def issueOp (i : Instr) : Option (List HostInput) := (assemble i).map fun v => [.write (slotOf .ctrl) v]

/-- The writes `WR B[i], b0; WR B[i+1], b1; …`; a byte that would fall outside the buffer is refused, as no B[12] exists. -/
def loadBytes : Nat → List Byte → Option (List HostInput)
  | _, [] => some []
  | i, b :: bs => if h : i < 12 then (loadBytes (i + 1) bs).map fun l => writeB ⟨i, h⟩ b :: l else none

/-- The accesses of one line (R75). -/
def expandLine : HostLine → Option (List HostInput)
  | .wr r v => some [.write (slotOf r) v]
  | .rd r _ => some [.read (slotOf r)]
  | .op i => issueOp i
  | .loadw k hi lo c => some [writeB (hiIndex k) hi, writeB (loIndex k) lo, writeB (checkIndex k) c]
  | .loadb i bs => loadBytes i.val bs
  | .genw k hi lo =>
    (issueOp (.dwEncode (BitVec.ofNat 4 k.val))).map fun l => writeB (hiIndex k) hi :: writeB (loIndex k) lo :: l
  | .crc8 n => issueOp (.crcCalc n)

/-- The accesses of a host program, in order; none where a line is refused. -/
def expandProgram : List HostLine → Option (List HostInput)
  | [] => some []
  | x :: xs => (expandLine x).bind fun l => (expandProgram xs).map fun m => l ++ m

/-- The read values a program states after its arrows, in order (R75). -/
def expectedReads : List HostLine → List Word
  | [] => []
  | .rd _ v :: xs => v :: expectedReads xs
  | .wr _ _ :: xs => expectedReads xs
  | .op _ :: xs => expectedReads xs
  | .loadw _ _ _ _ :: xs => expectedReads xs
  | .loadb _ _ :: xs => expectedReads xs
  | .genw _ _ _ :: xs => expectedReads xs
  | .crc8 _ :: xs => expectedReads xs

end Sys2Proof.Machine
end

