-- ==== Sys2Proof/Safety.lean ====
section
/-! DEFINITION. The terms claims about runs are stated in: the block's invariant, what may differ after an operation, which
bytes an operation reads, the host's duty to load them, and two hosts' interleavings. -/

namespace Sys2Proof.Machine

/-- The values STATUS can hold (60_exceptions.md R125, with the reset value of R42). -/
def legalStatus (v : Word) : Prop :=
  v = 0x00000000#32 ∨ v = 0x00000001#32 ∨ v = 0x00000005#32 ∨ v = 0x00000008#32 ∨
    ∃ mask : Nibble, mask ≠ 0 ∧ v = 0x00000002#32 ||| (zext 32 mask <<< 4)

/-- The block's invariant: the buffer is in its canonical form and STATUS holds a value of the code table. -/
def State.Inv (s : State) : Prop := s.buf.wf = true ∧ legalStatus s.status

/-- `s` and `t` hold the same in everything an operation never writes: the host's inputs and observation. -/
def State.sameHost (s t : State) : Prop := t.pending = s.pending ∧ t.reads = s.reads

/-- A step from `s` goes on: it neither faults nor refuses. -/
def goesOn (s : State) : Prop := ∃ t, step s = .next t

/-- The buffer bytes an operation reads (R71, R78, R84, R91, R96, R102, R104, R138); none where its operand is illegal
(R126). -/
def readsByte : Instr → BufIndex → Bool
  | .nop, _ => false
  | .crcCalc n, i => decide (n.toNat ≤ 12) && decide (i.val < n.toNat)
  | .crcAcc n, i => decide (n.toNat ≤ 12) && decide (i.val < n.toNat)
  | .dwEncode k, i => decide (k.toNat ≤ 3) && decide (3 * k.toNat ≤ i.val) && decide (i.val ≤ 3 * k.toNat + 1)
  | .dwCheck k, i => decide (k.toNat ≤ 3) && decide (3 * k.toNat ≤ i.val) && decide (i.val ≤ 3 * k.toNat + 2)
  | .frameCheck n, i => decide (1 ≤ n.toNat) && decide (n.toNat ≤ 4) && decide (i.val < 3 * n.toNat)
  | .measExtract, _ => true
  | .pidExtract, i => decide (i.val < 6)

/-- The operations whose check of DataWords can fail (R122). -/
def isChecking : Instr → Bool
  | .nop => false
  | .crcCalc _ => false
  | .crcAcc _ => false
  | .dwEncode _ => false
  | .dwCheck _ => true
  | .frameCheck _ => true
  | .measExtract => true
  | .pidExtract => true

/-- The words an operation checks (R91, R96, R102, R104); none where its operand is illegal (R126). -/
def checksWord : Instr → WordIndex → Bool
  | .nop, _ => false
  | .crcCalc _, _ => false
  | .crcAcc _, _ => false
  | .dwEncode _, _ => false
  | .dwCheck k, j => decide (j.val = k.toNat)
  | .frameCheck n, j => decide (n.toNat ≤ 4) && decide (j.val < n.toNat)
  | .measExtract, _ => true
  | .pidExtract, j => decide (j.val < 2)

/-- The buffer byte a host input writes, if any (R50). -/
def writesByte : HostInput → Option BufIndex
  | .write a _ => match regAt a with
    | some (.b i) => some i
    | _ => none
  | .read _ => none
  | .reset => none

/-- The operation a host input issues, if it issues a legal one (R64). -/
def issuesOperation : HostInput → Option Instr
  | .write a v => if a = slotOf .ctrl then (decode v).toOption else none
  | .read _ => none
  | .reset => none

/-- The input writes CTRL (R64). -/
def writesCtrl : HostInput → Bool
  | .write a _ => a == slotOf .ctrl
  | .read _ => false
  | .reset => false

/-- All the bytes an operation reads are loaded. -/
def readsLoaded (loaded : BufIndex → Bool) (i : Instr) : Bool :=
  (List.finRange 12).all fun j => !readsByte i j || loaded j

/-- The bytes loaded after one more input: a host write loads its byte, `rst` unloads all, and DW_ENCODE k writes byte 3k+2
from the word's payload, so that byte is loaded exactly when the payload was. -/
def loadedAfter (loaded : BufIndex → Bool) (x : HostInput) (j : BufIndex) : Bool :=
  match x with
  | .reset => false
  | .read _ => loaded j
  | .write a v =>
    match issuesOperation (.write a v) with
    | some (.dwEncode k) => if j.val = 3 * k.toNat + 2 then readsLoaded loaded (.dwEncode k) else loaded j
    | _ => loaded j || writesByte (.write a v) == some j

/-- The host's boot duty (R138) over a list of inputs: every checking or extracting operation comes after all the bytes it
reads are loaded. `loaded` are the bytes loaded before the list. -/
def loadsBeforeChecks : (BufIndex → Bool) → List HostInput → Bool
  | _, [] => true
  | loaded, x :: xs =>
    (match issuesOperation x with
      | some i => !isChecking i || readsLoaded loaded i
      | none => true) && loadsBeforeChecks (loadedAfter loaded x) xs

/-- The last value a list of inputs without DW_ENCODE leaves in B[i], from a starting value: no other operation writes B
(R23, R50, R57). -/
def lastWritten (i : BufIndex) : Byte → List HostInput → Byte
  | b, [] => b
  | b, .write a v :: xs => lastWritten i (if writesByte (.write a v) = some i then field v 0 8 else b) xs
  | b, .read _ :: xs => lastWritten i b xs
  | _, .reset :: xs => lastWritten i 0x00#8 xs

/-- The buffer bytes one input leaves, from the bytes before it: a host write stores its low byte (R50), DW_ENCODE k stores
the payload's checksum in B[3k+2] (R84), `rst` clears all (R42), and nothing else writes B (R23, R43). -/
def bytesAfter (b : BufIndex → Byte) (x : HostInput) (j : BufIndex) : Byte :=
  match x with
  | .reset => 0x00#8
  | .read _ => b j
  | .write a v =>
    match issuesOperation (.write a v) with
    | some (.dwEncode k) =>
      match wordIndex k with
      | some k => if j = checkIndex k then crc8 [b (hiIndex k), b (loIndex k)] else b j
      | none => b j
    | _ => if writesByte (.write a v) = some j then field v 0 8 else b j

/-- The buffer bytes a list of inputs leaves, each input on what the one before it left (R57). -/
def bytesAfterAll : (BufIndex → Byte) → List HostInput → BufIndex → Byte
  | b, [] => b
  | b, x :: xs => bytesAfterAll (bytesAfter b x) xs

/-- The host lines that feed one chunk to the checksum unit: load it from B[0], then issue `op` for its length (R79). -/
def feedChunk (op : Nibble → Instr) (chunk : List Byte) : List HostLine :=
  [.loadb 0 chunk, .op (op (BitVec.ofNat 4 chunk.length))]

/-- R79's chain over a message already cut into chunks: CRC_CALC on the first, and for each later one a reload of B and
CRC_ACC. -/
def chainedChecksum (first : List Byte) (later : List (List Byte)) : List HostLine :=
  feedChunk .crcCalc first ++ later.flatMap (feedChunk .crcAcc)

/-- A message cut into chunks of at most `BUF_BYTES` = 12 bytes, every chunk but the last full; `fuel` bounds their number. -/
def chunksFrom : (fuel : Nat) → List Byte → List (List Byte)
  | _, [] => []
  | 0, _ :: _ => []
  | fuel + 1, b :: bs => (b :: bs).take 12 :: chunksFrom fuel ((b :: bs).drop 12)

/-- The host lines that compute the checksum of a message of any length: its first 12 bytes by CRC_CALC, the rest in chunks
of at most 12 by CRC_ACC (R79). The empty message is `CRC_CALC 0` (R78). -/
def checksumProgram (message : List Byte) : List HostLine :=
  chainedChecksum (message.take 12) (chunksFrom message.length (message.drop 12))

/-- The number of host reads in a list of inputs. -/
def readCount : List HostInput → Nat
  | [] => 0
  | .read _ :: xs => readCount xs + 1
  | .write _ _ :: xs => readCount xs
  | .reset :: xs => readCount xs

/-- The inputs performed one after the other, each on the state the one before it left: what a host that waits for each
access sees (R55, R57). Where an input does not go on, the state before it stays. -/
def serveAll : List HostInput → State → State
  | [], s => s
  | x :: xs, s => match serve x s with
    | .next t => serveAll xs t
    | .fault _ => s
    | .refused _ => s

/-- `l` is an interleaving of the access lists of two hosts, each list in its own order (R62, R145). -/
inductive Interleaving : List HostInput → List HostInput → List HostInput → Prop where
  /-- Both hosts are done. -/
  | done : Interleaving [] [] []
  /-- The first host's next access comes next. -/
  | first {x xs ys l} : Interleaving xs ys l → Interleaving (x :: xs) ys (x :: l)
  /-- The second host's next access comes next. -/
  | second {y xs ys l} : Interleaving xs ys l → Interleaving xs (y :: ys) (y :: l)

/-- A host's writes of a whole DataWord to word k: its payload and the check byte that makes it valid (R75's LOADW, R89). -/
def loadValidWord (k : WordIndex) (hi lo : Byte) : List HostInput :=
  [writeB (hiIndex k) hi, writeB (loIndex k) lo, writeB (checkIndex k) (crc8 [hi, lo])]

/-- A host's check of word k: issue DW_CHECK k, then read STATUS (R91, R140). -/
def checkAndReadStatus (k : WordIndex) : List HostInput :=
  [.write (slotOf .ctrl) (encode (.dwCheck (BitVec.ofNat 4 k.val))), .read (slotOf .status)]

end Sys2Proof.Machine
end

