-- ==== Sys2Proof/Certificates/Slice0/Obligations.lean ====
section
/-! DEFINITION. The statements for the provers. -/

open Sys2Proof Sys2Proof.Machine

/-! ### Encoding -/

/-- Decode and encode agree on exactly the well-formed operations (30_encoding.md, sections 2 and 3). -/
def Obligations.DecodeOfEncodeGivesTheInstruction : Prop :=
  ∀ i : Instr, i.wellFormed = true ↔ decode (encode i) = .ok i

/-- Whatever decodes is well formed, and its encoding is the word it came from: no bit of a legal word is dropped. -/
def Obligations.EncodeOfDecodeGivesTheWord : Prop :=
  ∀ (v : Word) (i : Instr), decode v = .ok i → i.wellFormed = true ∧ encode i = v

/-- R70: the case table of `decode`, over all CTRL values, the 41 legal ones, and what an ILLEGAL value performs. -/
def Obligations.DecodeFollowsTheCaseTable : Prop :=
  (∀ v : Word, 256 ≤ v.toNat → (decode v).toOption = none) ∧
  (∀ op arg : Fin 16,
    (decode (BitVec.ofNat 32 (16 * arg.val + op.val))).toOption =
      match op.val with
      | 0 => if arg.val = 0 then some .nop else none
      | 1 => if arg.val ≤ 12 then some (.crcCalc (BitVec.ofNat 4 arg.val)) else none
      | 2 => if arg.val ≤ 12 then some (.crcAcc (BitVec.ofNat 4 arg.val)) else none
      | 3 => if arg.val ≤ 3 then some (.dwEncode (BitVec.ofNat 4 arg.val)) else none
      | 4 => if arg.val ≤ 3 then some (.dwCheck (BitVec.ofNat 4 arg.val)) else none
      | 5 => if 1 ≤ arg.val ∧ arg.val ≤ 4 then some (.frameCheck (BitVec.ofNat 4 arg.val)) else none
      | 6 => if arg.val = 0 then some .measExtract else none
      | 7 => if arg.val = 0 then some .pidExtract else none
      | _ => none) ∧
  ((List.range 256).filter fun v => (decode (BitVec.ofNat 32 v)).toOption.isSome).length = 41 ∧
  (∀ (v : Word) (s : State), (decode v).toOption = none → issue v s = .next { s with status := 0x00000008#32 })

/-- R67, R68, R69, R123: each kind of illegal CTRL value, by its bits, performs `raise IllegalOperation()`: STATUS is
0x00000008 and nothing else changes. -/
def Obligations.IllegalValuesRaiseIllegalOperation : Prop :=
  ∀ (v : Word) (s : State),
    (8 ≤ v.toNat % 16 ∨
      (v.toNat % 16 = 0 ∨ v.toNat % 16 = 6 ∨ v.toNat % 16 = 7) ∧ v.toNat / 16 % 16 ≠ 0 ∨
      (v.toNat % 16 = 1 ∨ v.toNat % 16 = 2) ∧ 13 ≤ v.toNat / 16 % 16 ∨
      (v.toNat % 16 = 3 ∨ v.toNat % 16 = 4) ∧ 4 ≤ v.toNat / 16 % 16 ∨
      v.toNat % 16 = 5 ∧ (v.toNat / 16 % 16 = 0 ∨ 5 ≤ v.toNat / 16 % 16) ∨
      v.toNat / 256 ≠ 0) →
    issue v s = .next { s with status := 0x00000008#32 }

/-- THE MODEL'S CHOICE (log entry 11, DEDUCED from the spec's treatment of the CTRL value): an operation term whose operand is
outside its legal set, which the decoder never gives and no step meets, does in `exec` what its CTRL value does,
IllegalOperation alone. -/
def Obligations.IllFormedOperationsRaiseIllegalOperation : Prop :=
  ∀ (i : Instr) (s : State), i.wellFormed = false → exec i s = .next { s with status := 0x00000008#32 }

/-- A few words of R66's table, written out, decode to the operations they stand for. -/
def Obligations.SampleWordsDecode : Prop :=
  decode 0b00000000000000000000000000000000#32 = .ok .nop ∧
  decode 0b00000000000000000000000011000001#32 = .ok (.crcCalc 12) ∧
  decode 0b00000000000000000000000000100010#32 = .ok (.crcAcc 2) ∧
  decode 0b00000000000000000000000000110011#32 = .ok (.dwEncode 3) ∧
  decode 0b00000000000000000000000000110100#32 = .ok (.dwCheck 3) ∧
  decode 0b00000000000000000000000001000101#32 = .ok (.frameCheck 4) ∧
  decode 0b00000000000000000000000000000110#32 = .ok .measExtract ∧
  decode 0b00000000000000000000000000000111#32 = .ok .pidExtract

/-- The assembler emits a word for an operand in its range, refuses the others, and never emits an illegal word
(30_encoding.md, section 4). -/
def Obligations.AssemblerRefusesIllegalOperands : Prop :=
  assemble .nop = some 0x00000000#32 ∧ assemble .measExtract = some 0x00000006#32 ∧
  assemble .pidExtract = some 0x00000007#32 ∧
  (∀ n : Nibble, assemble (.crcCalc n) = if n.toNat ≤ 12 then some (BitVec.ofNat 32 (16 * n.toNat + 1)) else none) ∧
  (∀ n : Nibble, assemble (.crcAcc n) = if n.toNat ≤ 12 then some (BitVec.ofNat 32 (16 * n.toNat + 2)) else none) ∧
  (∀ k : Nibble, assemble (.dwEncode k) = if k.toNat ≤ 3 then some (BitVec.ofNat 32 (16 * k.toNat + 3)) else none) ∧
  (∀ k : Nibble, assemble (.dwCheck k) = if k.toNat ≤ 3 then some (BitVec.ofNat 32 (16 * k.toNat + 4)) else none) ∧
  (∀ n : Nibble, assemble (.frameCheck n) =
    if 1 ≤ n.toNat ∧ n.toNat ≤ 4 then some (BitVec.ofNat 32 (16 * n.toNat + 5)) else none) ∧
  (∀ (i : Instr) (w : Word), assemble i = some w → decode w = .ok i)

/-! ### A step and the host port -/

/-- A step runs the decoded operation: where the host's next input (the model's list of them, log entry 1) is a write of v to
CTRL, the step moves past it and runs what v decodes to; what does not decode raises IllegalOperation (30_encoding.md,
section 1). -/
def Obligations.StepRunsTheDecodedOperation : Prop :=
  (∀ (s : State) (v : Word) (rest : List HostInput) (i : Instr),
    s.pending = .write 0x00#5 v :: rest → decode v = .ok i → step s = exec i { s with pending := rest }) ∧
  (∀ (s : State) (v : Word) (rest : List HostInput) (e : DecodeError),
    s.pending = .write 0x00#5 v :: rest → decode v = .error e →
      step s = .next { s with pending := rest, status := 0x00000008#32 })

/-- A step on a host read returns the slot's value and has no other effect (20_memory.md, section 4). -/
def Obligations.StepOnAReadHasNoSideEffect : Prop :=
  ∀ (s : State) (a : Slot) (rest : List HostInput), s.pending = .read a :: rest →
    step s = .next { s with pending := rest, reads := s.reads ++ [readValue s a] }

/-- A step on an assertion of `rst` sets every register to its reset value (70_reset_and_hazards.md, section 1; that `rst` is one input among the host's is the model's, log entry 8). -/
def Obligations.StepOnResetSetsEveryRegister : Prop :=
  ∀ (s : State) (rest : List HostInput), s.pending = .reset :: rest →
    ∃ t, step s = .next t ∧ t.status = 0x00000000#32 ∧ t.crc = 0xFF#8 ∧ (∀ i, t.byte i = 0x00#8) ∧
      (∀ k : WordIndex, t.word[k] = 0x0000#16) ∧ t.co2 = 0x0000#16 ∧ t.traw = 0x0000#16 ∧ t.hraw = 0x0000#16 ∧
      t.mstat = 0x0000#16 ∧ t.pid = 0x00000000#32 ∧ t.pending = rest ∧ t.reads = s.reads

/-- R42: the reset values, EXPID hard-wired and CTRL reading 0. -/
def Obligations.ResetValues : Prop :=
  State.reset.status = 0x00000000#32 ∧ State.reset.crc = 0xFF#8 ∧ (∀ i, State.reset.byte i = 0x00#8) ∧
  (∀ k : WordIndex, State.reset.word[k] = 0x0000#16) ∧ State.reset.co2 = 0x0000#16 ∧ State.reset.traw = 0x0000#16 ∧
  State.reset.hraw = 0x0000#16 ∧ State.reset.mstat = 0x0000#16 ∧ State.reset.pid = 0x00000000#32 ∧
  readValue State.reset 0x03#5 = Config.expectedId ∧ readValue State.reset 0x00#5 = 0x00000000#32

/-- The register map both ways: every register has its own slot, and the slots with no register are 0x19 to 0x1F
(10_state.md, section 2). -/
def Obligations.RegisterMapIsOneToOne : Prop :=
  (∀ r : Reg, regAt (slotOf r) = some r) ∧ (∀ (a : Slot) (r : Reg), regAt a = some r → slotOf r = a) ∧
  (∀ a : Slot, regAt a = none ↔ 0x19 ≤ a.toNat)

/-- What a host read returns at each of the 32 slots, in every state (10_state.md, sections 2 and 6). EXPID reads the
parameter EXPECTED_ID, which the model sets to the spec's default (log entry 3). -/
def Obligations.HostReadValues : Prop :=
  ∀ s : State,
    readValue s 0x00#5 = 0x00000000#32 ∧ (legalStatus s.status → readValue s 0x01#5 = s.status) ∧
    readValue s 0x02#5 = zext 32 s.crc ∧ readValue s 0x03#5 = Config.expectedId ∧
    (∀ i : BufIndex, readValue s (BitVec.ofNat 5 (0x04 + i.val)) = zext 32 (s.byte i)) ∧
    (∀ k : WordIndex, readValue s (BitVec.ofNat 5 (0x10 + k.val)) = zext 32 s.word[k]) ∧
    readValue s 0x14#5 = zext 32 s.co2 ∧ readValue s 0x15#5 = zext 32 s.traw ∧ readValue s 0x16#5 = zext 32 s.hraw ∧
    readValue s 0x17#5 = zext 32 s.mstat ∧ readValue s 0x18#5 = s.pid ∧
    (∀ a : Slot, 0x19 ≤ a.toNat → readValue s a = 0x00000000#32)

/-- R31: in every state, reachable or not, a read of STATUS gives 0 in bits 31:8. -/
def Obligations.StatusReservedBitsReadZero : Prop :=
  ∀ s : State, (readValue s 0x01#5).extractLsb' 8 24 = 0

/-- R50: a host write to B[i] stores bits 7:0 there and does nothing else; a host read returns B[i] zero-extended. -/
def Obligations.HostAccessToTheBuffer : Prop :=
  ∀ (s : State) (i : BufIndex) (v : Word),
    (∃ t, writeSlot (BitVec.ofNat 5 (0x04 + i.val)) v s = .next t ∧ t.byte i = v.extractLsb' 0 8 ∧
      (∀ j, j ≠ i → t.byte j = s.byte j) ∧ { t with buf := s.buf } = s) ∧
    readValue s (BitVec.ofNat 5 (0x04 + i.val)) = zext 32 (s.byte i)

/-- A host write to a read-only register or a reserved address changes no state (10_state.md, section 6). -/
def Obligations.OtherHostWritesAreIgnored : Prop :=
  ∀ (s : State) (a : Slot) (v : Word),
    0x01 ≤ a.toNat ∧ a.toNat ≤ 0x03 ∨ 0x10 ≤ a.toNat → writeSlot a v s = .next s

/-- The placement at DWD_BASE, for every base: the block's window is its 32 slots, and an address is an offset from the base
(20_memory.md, section 5). THE MODEL'S CHOICE (log entry 4): that a slot is one unit of the host's address space, and that an
address outside the window names no slot. -/
def Obligations.HostAddressesAreOffsetsFromTheBase : Prop :=
  (∀ (base : Nat) (a : Slot), slotAtHostAddress base (hostAddress base a) = some a) ∧
  (∀ (base addr : Nat) (a : Slot), slotAtHostAddress base addr = some a → addr = hostAddress base a) ∧
  (∀ base addr : Nat, addr < base ∨ base + 32 ≤ addr → slotAtHostAddress base addr = none) ∧
  (∀ a : Slot, slotAtHostAddress Config.dwdBase (platformAddress a) = some a)

/-! ### Every step -/

/-- The block's invariant, kept by every step from every state that meets it: the buffer keeps its canonical form (the
model's, log entry 7) and STATUS holds a value of the code table (60_exceptions.md, section 1). -/
def Obligations.StepKeepsTheInvariant : Prop :=
  ∀ s t : State, s.Inv → step s = .next t → t.Inv

/-- The reset state meets the invariant. -/
def Obligations.ResetMeetsTheInvariant : Prop := State.reset.Inv

/-- The canonical form is canonical: two buffers that read the same are the same data (the model's, log entry 7). -/
def Obligations.CanonicalBuffersThatReadTheSameAreEqual : Prop :=
  ∀ m m' : Memory, m.wf = true → m'.wf = true → (∀ i, m.read i = m'.read i) → m = m'

/-- No state stops the block: it has no trap and no access fault (60_exceptions.md, sections 1 and 3). -/
def Obligations.EveryStepGoesOn : Prop := ∀ s : State, goesOn s

/-- As many steps as there are inputs perform them all, in order, each on the state the one before it left: nothing is
reordered, buffered or waited for (20_memory.md, sections 4 and 6; the list of inputs is the model's, log entry 1). -/
def Obligations.RunPerformsTheInputsInOrder : Prop :=
  ∀ s : State, Sys2Proof.core.run s.pending.length s = .next (serveAll s.pending { s with pending := [] })

/-- Every host read of a run returns exactly one value, after the ones returned before, and no input is left
(20_memory.md, section 6; the lists of inputs and of values read are the model's, log entries 1 and 2). -/
def Obligations.RunAnswersEveryRead : Prop :=
  ∀ s : State, ∃ t : State, Sys2Proof.core.run s.pending.length s = .next t ∧ t.pending = [] ∧
    ∃ vs, t.reads = s.reads ++ vs ∧ vs.length = readCount s.pending

/-- The buffer holds, and a host read of it returns, what the last earlier write or operation left (20_memory.md, section 6;
the list of inputs is the model's, log entry 1). Over inputs none of which issues DW_ENCODE, the only operation that writes B,
it is the last write's low byte, or the reset value after a later `rst`, or what was there before. Over all inputs, DW_ENCODE
among them, it is what applying each input's own write to B in order leaves. -/
def Obligations.BufferHoldsTheLastWrittenByte : Prop :=
  (∀ (xs : List HostInput) (s : State) (i : BufIndex), (∀ x ∈ xs, ∀ k, issuesOperation x ≠ some (.dwEncode k)) →
    (serveAll xs s).byte i = lastWritten i (s.byte i) xs ∧
    readValue (serveAll xs s) (slotOf (.b i)) = zext 32 (lastWritten i (s.byte i) xs)) ∧
  (∀ (xs : List HostInput) (s : State) (i : BufIndex),
    (serveAll xs s).byte i = bytesAfterAll s.byte xs i ∧
    readValue (serveAll xs s) (slotOf (.b i)) = zext 32 (bytesAfterAll s.byte xs i))

/-- Two hosts whose accesses interleave are a race (20_memory.md, section 6). One host loads a valid DataWord into word k,
issues DW_CHECK k and reads STATUS; the other writes one other value to the word's check byte. From any state, with the hosts
one after the other in either order the read returns 0x00000001, accepted; with the second host's write between the first
one's load and its check, it returns CRC_ERR with WFAIL[k], rejected. THE MODEL'S READING (log entry 9, DEDUCED): two hosts
are the lists of inputs that interleave theirs. -/
def Obligations.InterleavedHostsRace : Prop :=
  ∀ (s : State) (k : WordIndex) (hi lo c : Byte), c ≠ crc8 [hi, lo] →
    Interleaving (loadValidWord k hi lo ++ checkAndReadStatus k) [writeB (checkIndex k) c]
      (loadValidWord k hi lo ++ checkAndReadStatus k ++ [writeB (checkIndex k) c]) ∧
    Interleaving (loadValidWord k hi lo ++ checkAndReadStatus k) [writeB (checkIndex k) c]
      ([writeB (checkIndex k) c] ++ (loadValidWord k hi lo ++ checkAndReadStatus k)) ∧
    Interleaving (loadValidWord k hi lo ++ checkAndReadStatus k) [writeB (checkIndex k) c]
      (loadValidWord k hi lo ++ [writeB (checkIndex k) c] ++ checkAndReadStatus k) ∧
    (serveAll (loadValidWord k hi lo ++ checkAndReadStatus k ++ [writeB (checkIndex k) c]) s).reads =
      s.reads ++ [0x00000001#32] ∧
    (serveAll ([writeB (checkIndex k) c] ++ (loadValidWord k hi lo ++ checkAndReadStatus k)) s).reads =
      s.reads ++ [0x00000001#32] ∧
    (serveAll (loadValidWord k hi lo ++ [writeB (checkIndex k) c] ++ checkAndReadStatus k) s).reads =
      s.reads ++ [0x00000002#32 ||| (0x00000010#32 <<< k.val)]

/-! ### Checksum operations -/

/-- R78: CRC_CALC n. -/
def Obligations.CrcCalcFollowsItsRule : Prop :=
  (∀ n : Nibble, n.toNat ≤ 12 → decode (zext 32 (concat n 0x1#4)) = .ok (.crcCalc n)) ∧
  (∀ (s : State) (n : Nibble), n.toNat ≤ 12 →
    exec (.crcCalc n) s = .next { s with crc := crc8 (s.bytes n.toNat), status := 0x00000000#32 }) ∧
  (∀ (s : State) (n : Nibble), 13 ≤ n.toNat →
    issue (zext 32 (concat n 0x1#4)) s = .next { s with status := 0x00000008#32 }) ∧
  (∀ s : State, exec (.crcCalc 0) s = .next { s with crc := 0xFF#8, status := 0x00000000#32 }) ∧
  (∀ s : State, s.valid 0 = true → exec (.crcCalc 3) s = .next { s with crc := 0x00#8, status := 0x00000000#32 }) ∧
  (∀ s : State, s.byte 0 = 0xBE#8 → s.byte 1 = 0xEF#8 →
    issue 0x00000021#32 s = .next { s with crc := 0x92#8, status := 0x00000000#32 })

/-- R81: CRC_ACC n. -/
def Obligations.CrcAccFollowsItsRule : Prop :=
  (∀ n : Nibble, n.toNat ≤ 12 → decode (zext 32 (concat n 0x2#4)) = .ok (.crcAcc n)) ∧
  (∀ (s : State) (n : Nibble), n.toNat ≤ 12 →
    exec (.crcAcc n) s = .next { s with crc := crc8From s.crc (s.bytes n.toNat), status := 0x00000000#32 }) ∧
  (∀ (s : State) (n : Nibble), 13 ≤ n.toNat →
    issue (zext 32 (concat n 0x2#4)) s = .next { s with status := 0x00000008#32 }) ∧
  (∀ s : State, exec (.crcAcc 0) s = .next { s with status := 0x00000000#32 }) ∧
  (∀ (s t : State) (n : Nibble), n.toNat ≤ 12 → exec (.crcAcc n) s = .next t →
    exec (.crcAcc n) t =
      .next { s with crc := crc8From s.crc (s.bytes n.toNat ++ s.bytes n.toNat), status := 0x00000000#32 }) ∧
  (∃ (s t : State) (n : Nibble), exec (.crcAcc n) s = .next t ∧ exec (.crcAcc n) t ≠ .next t) ∧
  (∀ (s : State) (n : Nibble), s.crc = State.reset.crc → exec (.crcAcc n) s = exec (.crcCalc n) s) ∧
  (∀ s : State, s.crc = 0x00#8 → s.byte 0 = 0x01#8 → s.byte 1 = 0x02#8 →
    issue 0x00000022#32 s = .next { s with crc := 0x96#8, status := 0x00000000#32 })

/-- R84: DW_ENCODE k. The one byte it stores to is B[3k+2], `checkIndex k`. -/
def Obligations.DwEncodeFollowsItsRule : Prop :=
  (∀ k : WordIndex, decode (zext 32 (concat (BitVec.ofNat 4 k.val) 0x3#4)) = .ok (.dwEncode (BitVec.ofNat 4 k.val))) ∧
  (∀ (s : State) (k : WordIndex), ∃ t, exec (.dwEncode (BitVec.ofNat 4 k.val)) s = .next t ∧
    t.byte (checkIndex k) = crc8 [s.byte (hiIndex k), s.byte (loIndex k)] ∧
    (∀ j, j ≠ checkIndex k → t.byte j = s.byte j) ∧
    { t with buf := s.buf } = { s with status := 0x00000000#32 } ∧
    exec (.dwEncode (BitVec.ofNat 4 k.val)) t = .next t) ∧
  (∀ (s : State) (n : Nibble), 4 ≤ n.toNat →
    issue (zext 32 (concat n 0x3#4)) s = .next { s with status := 0x00000008#32 }) ∧
  crc8 [0xFF#8, 0xFF#8] = 0xAC#8 ∧ crc8 [0x00#8, 0x00#8] = 0x81#8 ∧
  (∀ s : State, s.byte 0 = 0x01#8 → s.byte 1 = 0x02#8 →
    ∃ t, issue 0x00000003#32 s = .next t ∧ t.byte 2 = 0x17#8)

/-- R82: the chaining law. -/
def Obligations.ChecksumsChain : Prop :=
  (∀ (c : Byte) (a b : List Byte), crc8From c (a ++ b) = crc8From (crc8From c a) b) ∧
  (∀ a b : List Byte, crc8 (a ++ b) = crc8From (crc8 a) b)

/-- R83: the residue law, and the equivalent check it gives. -/
def Obligations.ValidWordsHaveResidueZero : Prop :=
  (∀ hi lo : Byte, crc8 [hi, lo, crc8 [hi, lo]] = 0x00#8) ∧
  (∀ (s : State) (k : WordIndex),
    s.valid k = true ↔ crc8 [s.byte (hiIndex k), s.byte (loIndex k), s.byte (checkIndex k)] = 0x00#8)

/-- The checksum update is affine over GF(2) (40_checksum.md, section 1). -/
def Obligations.ChecksumIsAffine : Prop :=
  ∀ (c₁ c₂ : Byte) (b₁ b₂ : List Byte), b₁.length = b₂.length →
    crc8From (c₁ ^^^ c₂) (List.zipWith (· ^^^ ·) b₁ b₂) = crc8From c₁ b₁ ^^^ crc8From c₂ b₂

/-- R79: a message of any length has its checksum computed by chaining. However it is cut into chunks of at most 12 bytes,
loading the first and issuing CRC_CALC, then reloading B with each later one and issuing CRC_ACC, leaves the checksum of the
concatenation in CRC; and `checksumProgram`, which cuts a message of any length at every 12 bytes (one cut among them, the model's choice, log entry 16), computes its
checksum. -/
def Obligations.EveryMessageChecksumCanBeComputed : Prop :=
  (∀ (first : List Byte) (later : List (List Byte)) (s : State), first.length ≤ 12 → (∀ c ∈ later, c.length ≤ 12) →
    ∃ xs, expandProgram (chainedChecksum first later) = some xs ∧ (serveAll xs s).crc = crc8 (first ++ later.flatten)) ∧
  (∀ (message : List Byte) (s : State),
    ∃ xs, expandProgram (checksumProgram message) = some xs ∧ (serveAll xs s).crc = crc8 message)

/-- R85: after DW_ENCODE k, word k is valid and a following DW_CHECK k accepts it. -/
def Obligations.EncodedWordsAreAccepted : Prop :=
  ∀ (s : State) (k : WordIndex), ∃ t u, exec (.dwEncode (BitVec.ofNat 4 k.val)) s = .next t ∧ t.valid k = true ∧
    exec (.dwCheck (BitVec.ofNat 4 k.val)) t = .next u ∧ statusOk u.status = true ∧ u.word[k] = t.payload k

/-- R86: flipping any one of the 24 bits of a valid word makes it invalid. -/
def Obligations.SingleBitFlipsInvalidateAWord : Prop :=
  ∀ (hi lo : Byte) (j : Fin 24),
    crc8 [((hi ++ lo ++ crc8 [hi, lo]) ^^^ (1#24 <<< j.val)).extractLsb' 16 8,
      ((hi ++ lo ++ crc8 [hi, lo]) ^^^ (1#24 <<< j.val)).extractLsb' 8 8] ≠
    ((hi ++ lo ++ crc8 [hi, lo]) ^^^ (1#24 <<< j.val)).extractLsb' 0 8

/-- The source's property on the machine: a valid word in the buffer with any single bit flipped is rejected by DW_CHECK and
by every frame that holds it, of FRAME_CHECK, MEAS_EXTRACT and PID_EXTRACT. Each leaves OK = 0 and WFAIL[k] = 1 and writes
nothing but STATUS, except that PID_EXTRACT sets PID to 0. -/
def Obligations.SingleBitFlipsAreRejectedByEveryCheck : Prop :=
  ∀ (s : State) (k : WordIndex) (i : BufIndex) (j : Fin 8), s.valid k = true → i.val / 3 = k.val →
    (exec (.dwCheck (BitVec.ofNat 4 k.val)) (s.setByte i (s.byte i ^^^ (1#8 <<< j.val))) =
      .next { s.setByte i (s.byte i ^^^ (1#8 <<< j.val)) with status := 0x00000002#32 ||| (0x00000010#32 <<< k.val) }) ∧
    (∀ n : Fin 5, k.val < n.val →
      ∃ t, exec (.frameCheck (BitVec.ofNat 4 n.val)) (s.setByte i (s.byte i ^^^ (1#8 <<< j.val))) = .next t ∧
        statusOk t.status = false ∧ (statusWfail t.status).getLsbD k.val = true ∧
        t = { s.setByte i (s.byte i ^^^ (1#8 <<< j.val)) with status := t.status }) ∧
    (∃ t, exec .measExtract (s.setByte i (s.byte i ^^^ (1#8 <<< j.val))) = .next t ∧
      statusOk t.status = false ∧ (statusWfail t.status).getLsbD k.val = true ∧
      t = { s.setByte i (s.byte i ^^^ (1#8 <<< j.val)) with status := t.status }) ∧
    (k.val < 2 →
      ∃ t, exec .pidExtract (s.setByte i (s.byte i ^^^ (1#8 <<< j.val))) = .next t ∧
        statusOk t.status = false ∧ (statusWfail t.status).getLsbD k.val = true ∧
        t = { s.setByte i (s.byte i ^^^ (1#8 <<< j.val)) with status := t.status, pid := 0x00000000#32 })

/-- R77: the two published check values. -/
def Obligations.PublishedCheckValues : Prop :=
  crc8 [0xBE#8, 0xEF#8] = 0x92#8 ∧
  crc8 [0x31#8, 0x32#8, 0x33#8, 0x34#8, 0x35#8, 0x36#8, 0x37#8, 0x38#8, 0x39#8] = 0xF7#8

/-! ### DataWord frame decoder -/

/-- R90: the payload is an unsigned big-endian number, of every value, and one check byte of the 256 makes it valid. -/
def Obligations.OneCheckByteIsValidForEachPayload : Prop :=
  (∀ (s : State) (k : WordIndex), (s.payload k).toNat = 256 * (s.byte (hiIndex k)).toNat + (s.byte (loIndex k)).toNat) ∧
  (∀ (k : WordIndex) (p : Payload), ∃ s : State, s.payload k = p) ∧
  (∀ (s : State) (k : WordIndex), ∃ c : Byte,
    (∀ d : Byte, (s.setByte (checkIndex k) d).valid k = true ↔ d = c)) ∧
  (∀ (s : State) (k : WordIndex),
    ((List.range 256).filter fun d => !(s.setByte (checkIndex k) (BitVec.ofNat 8 d)).valid k).length = 255)

/-- R91: DW_CHECK k. -/
def Obligations.DwCheckFollowsItsRule : Prop :=
  (∀ k : WordIndex, decode (zext 32 (concat (BitVec.ofNat 4 k.val) 0x4#4)) = .ok (.dwCheck (BitVec.ofNat 4 k.val))) ∧
  (∀ (s : State) (k : WordIndex), crc8 [s.byte (hiIndex k), s.byte (loIndex k)] = s.byte (checkIndex k) →
    exec (.dwCheck (BitVec.ofNat 4 k.val)) s =
      .next { s with word := s.word.set k.val (s.byte (hiIndex k) ++ s.byte (loIndex k)), status := 0x00000001#32 }) ∧
  (∀ (s : State) (k : WordIndex), crc8 [s.byte (hiIndex k), s.byte (loIndex k)] ≠ s.byte (checkIndex k) →
    exec (.dwCheck (BitVec.ofNat 4 k.val)) s =
      .next { s with status := zext 32 (concat (0x1#4 <<< k.val) 0b0010#4) }) ∧
  (∀ (s : State) (n : Nibble), 4 ≤ n.toNat →
    issue (zext 32 (concat n 0x4#4)) s = .next { s with status := 0x00000008#32 }) ∧
  (∀ (s : State) (k : WordIndex), (∀ j, s.byte j = 0x00#8) → s.valid k = false) ∧
  (∀ s : State, s.byte 0 = 0x01#8 → s.byte 1 = 0x02#8 → s.byte 2 = 0x17#8 →
    issue 0x00000004#32 s = .next { s with word := s.word.set 0 0x0102#16, status := 0x00000001#32 })

/-- R96: FRAME_CHECK n. -/
def Obligations.FrameCheckFollowsItsRule : Prop :=
  (∀ n : Nibble, 1 ≤ n.toNat → n.toNat ≤ 4 → decode (zext 32 (concat n 0x5#4)) = .ok (.frameCheck n)) ∧
  (∀ (s : State) (n : Nibble), 1 ≤ n.toNat → n.toNat ≤ 4 →
    (∀ k : WordIndex, k.val < n.toNat → s.valid k = true) →
    ∃ w : Vector Payload 4,
      (∀ k : WordIndex, w[k] = if k.val < n.toNat then s.byte (hiIndex k) ++ s.byte (loIndex k) else s.word[k]) ∧
      exec (.frameCheck n) s = .next { s with word := w, status := 0x00000001#32 }) ∧
  (∀ (s : State) (n : Nibble), 1 ≤ n.toNat → n.toNat ≤ 4 →
    (∃ k : WordIndex, k.val < n.toNat ∧ s.valid k = false) →
    ∃ fail : Nibble, (∀ k : WordIndex, fail.getLsbD k.val = (decide (k.val < n.toNat) && !s.valid k)) ∧ fail ≠ 0 ∧
      exec (.frameCheck n) s = .next { s with status := zext 32 (concat fail 0b0010#4) }) ∧
  (∀ (s : State) (n : Nibble), n.toNat = 0 ∨ 5 ≤ n.toNat →
    issue (zext 32 (concat n 0x5#4)) s = .next { s with status := 0x00000008#32 }) ∧
  (∀ s : State, s.byte 0 = 0x09#8 → s.byte 1 = 0x01#8 → s.byte 2 = 0x73#8 → s.byte 3 = 0x01#8 → s.byte 4 = 0x8A#8 →
    s.byte 5 = 0xD4#8 →
    issue 0x00000025#32 s =
      .next { s with word := (s.word.set 0 0x0901#16).set 1 0x018A#16, status := 0x00000001#32 })

/-- R94: a frame is accepted or rejected as a unit, by FRAME_CHECK n (n words), MEAS_EXTRACT (4) and PID_EXTRACT (2): OK
exactly when every word is valid, and a rejected frame writes no WORD register. -/
def Obligations.FramesAreAcceptedAsAUnit : Prop :=
  ∀ (s : State) (i : Instr) (n : Nat),
    ((∃ a : Nibble, i = .frameCheck a ∧ n = a.toNat ∧ 1 ≤ n ∧ n ≤ 4) ∨ i = .measExtract ∧ n = 4 ∨ i = .pidExtract ∧ n = 2) →
    ∃ t, exec i s = .next t ∧
      (statusOk t.status = true ↔ ∀ k : WordIndex, k.val < n → s.valid k = true) ∧
      (statusOk t.status = false → t.word = s.word)

/-- R101: FRAME_CHECK 1 and DW_CHECK 0 agree on every buffer, and what both give where word 0 is invalid. -/
def Obligations.DwCheckZeroAgreesWithFrameCheckOne : Prop :=
  ∀ s : State, exec (.dwCheck 0) s = exec (.frameCheck 1) s ∧
    (s.valid 0 = false → exec (.dwCheck 0) s = .next { s with status := 0x00000012#32 })

/-- R97: a FRAME_CHECK that stops at the first invalid word gives the same result and registers, and differs only in WFAIL
bits above the lowest failing word. At an illegal ARG both sides are the model's reading of an ill-formed term (log
entry 11). -/
def Obligations.EarlyExitDiffersOnlyInWfail : Prop :=
  ∀ (s : State) (n : Nibble), ∃ t u, exec (.frameCheck n) s = .next t ∧ earlyFrameCheck n s = .next u ∧
    { u with status := t.status } = t ∧ statusOk u.status = statusOk t.status ∧
    statusCrcErr u.status = statusCrcErr t.status ∧ statusIdMatch u.status = statusIdMatch t.status ∧
    statusIllegal u.status = statusIllegal t.status ∧
    u.status.extractLsb' 8 24 = t.status.extractLsb' 8 24 ∧
    (∀ j : WordIndex, (statusWfail u.status).getLsbD j.val ≠ (statusWfail t.status).getLsbD j.val →
      ∃ k : WordIndex, k < j ∧ s.laneFails n.toNat k = true)

/-! ### Extractors -/

/-- R102: MEAS_EXTRACT, with the word order of R103. -/
def Obligations.MeasExtractFollowsItsRule : Prop :=
  decode 0x00000006#32 = .ok .measExtract ∧
  (∀ s : State, (∀ k : WordIndex, s.valid k = true) →
    exec .measExtract s = .next { s with
      word := #v[s.byte 0 ++ s.byte 1, s.byte 3 ++ s.byte 4, s.byte 6 ++ s.byte 7, s.byte 9 ++ s.byte 10],
      co2 := s.byte 0 ++ s.byte 1, traw := s.byte 3 ++ s.byte 4, hraw := s.byte 6 ++ s.byte 7,
      mstat := s.byte 9 ++ s.byte 10, status := 0x00000001#32 }) ∧
  (∀ s : State, (∃ k : WordIndex, s.valid k = false) →
    ∃ fail : Nibble, (∀ k : WordIndex, fail.getLsbD k.val = !s.valid k) ∧ fail ≠ 0 ∧
      exec .measExtract s = .next { s with status := zext 32 (concat fail 0b0010#4) }) ∧
  (∀ (s : State) (v : Word), v.toNat % 16 = 6 → v ≠ 0x00000006#32 →
    issue v s = .next { s with status := 0x00000008#32 }) ∧
  (∀ s : State, s.bytes 12 = [0x01#8, 0x02#8, 0x17#8, 0x66#8, 0x66#8, 0x93#8, 0x80#8, 0x00#8, 0xA2#8, 0x12#8, 0x34#8, 0x37#8] →
    ∃ t, issue 0x00000006#32 s = .next t ∧ t.co2 = 0x0102#16 ∧ t.traw = 0x6666#16 ∧ t.hraw = 0x8000#16 ∧
      t.mstat = 0x1234#16 ∧ t.status = 0x00000001#32)

/-- R104: PID_EXTRACT of a block whose EXPID is hard-wired to any value, and that the machine runs it with its EXPID. -/
def Obligations.PidExtractFollowsItsRule : Prop :=
  decode 0x00000007#32 = .ok .pidExtract ∧
  (∀ s : State, exec .pidExtract s = .next (extractProductId Config.expectedId s)) ∧
  (∀ (expid : Word) (s : State), s.valid 0 = true → s.valid 1 = true →
    extractProductId expid s = { s with
      word := #v[s.byte 0 ++ s.byte 1, s.byte 3 ++ s.byte 4, s.word[2], s.word[3]],
      pid := s.byte 0 ++ (s.byte 1 ++ (s.byte 3 ++ s.byte 4)),
      status := if s.byte 0 ++ (s.byte 1 ++ (s.byte 3 ++ s.byte 4)) = expid then 0x00000005#32 else 0x00000001#32 }) ∧
  (∀ (expid : Word) (s : State), s.valid 0 = false ∨ s.valid 1 = false →
    ∃ fail : Nibble, (∀ k : WordIndex, fail.getLsbD k.val = (decide (k.val < 2) && !s.valid k)) ∧ fail ≠ 0 ∧
      extractProductId expid s =
        { s with pid := 0x00000000#32, status := zext 32 (concat fail 0b0010#4) }) ∧
  (∀ (s : State) (v : Word), v.toNat % 16 = 7 → v ≠ 0x00000007#32 →
    issue v s = .next { s with status := 0x00000008#32 }) ∧
  (∀ s : State, s.bytes 6 = [0x09#8, 0x01#8, 0x73#8, 0x01#8, 0x8A#8, 0xD4#8] →
    (extractProductId 0x0901018A#32 s).pid = 0x0901018A#32 ∧
    (extractProductId 0x0901018A#32 s).status = 0x00000005#32)

/-- ID_MATCH is 1 exactly when the frame is accepted and the assembled PID equals EXPID on all 32 bits, for every EXPID
(42_extract.md, section 2). -/
def Obligations.IdMatchExactlyOnEqualIds : Prop :=
  ∀ (expid : Word) (s : State),
    statusIdMatch (extractProductId expid s).status = true ↔
      statusOk (extractProductId expid s).status = true ∧ (extractProductId expid s).pid = expid

/-- R107: which byte is where in an accepted PID, and that it is the two payloads in order. -/
def Obligations.ProductIdByteSignificance : Prop :=
  ∀ s : State, s.valid 0 = true → s.valid 1 = true → ∃ t, exec .pidExtract s = .next t ∧
    t.pid.extractLsb' 24 8 = s.byte 0 ∧ t.pid.extractLsb' 16 8 = s.byte 1 ∧ t.pid.extractLsb' 8 8 = s.byte 3 ∧
    t.pid.extractLsb' 0 8 = s.byte 4 ∧ t.pid = concat (s.payload 0) (s.payload 1)

/-- R106, R108: a rejected frame gives PID = 0 with OK = 0; a genuine zero ID gives PID = 0 with OK = 1. -/
def Obligations.GenuineZeroIdDiffersFromTheSentinel : Prop :=
  (∀ s : State, s.valid 0 = false ∨ s.valid 1 = false →
    ∃ t, exec .pidExtract s = .next t ∧ t.pid = 0x00000000#32 ∧ statusOk t.status = false) ∧
  (∀ s : State, s.valid 0 = true → s.valid 1 = true → s.payload 0 = 0x0000#16 → s.payload 1 = 0x0000#16 →
    ∃ t, exec .pidExtract s = .next t ∧ t.pid = 0x00000000#32 ∧ statusOk t.status = true)

/-- R117: NOP, and that no other legal operation leaves STATUS unchanged in every state. -/
def Obligations.NopFollowsItsRule : Prop :=
  decode 0x00000000#32 = .ok .nop ∧ (∀ s : State, exec .nop s = .next s) ∧
  (∀ s : State, issue 0x00000000#32 s = .next s) ∧
  (∀ i : Instr, i.wellFormed = true → i ≠ .nop → ∃ s t : State, exec i s = .next t ∧ t.status ≠ s.status) ∧
  (∀ (s : State) (v : Word), v.toNat % 16 = 0 → v ≠ 0x00000000#32 → issue v s = .next { s with status := 0x00000008#32 }) ∧
  (∀ s : State, s.status = 0x00000012#32 → ∃ t, issue 0x00000000#32 s = .next t ∧ t.status = 0x00000012#32)

/-! ### Rules about every operation -/

/-- What an operation does not write, legal operand or not, it leaves as it was; every byte of the buffer among it
(10_state.md, sections 2 and 8). -/
def Obligations.OperationsWriteOnlyTheirRegisters : Prop :=
  ∀ (i : Instr) (s : State), ∃ t, exec i s = .next t ∧ t.sameHost s ∧
    ((∀ n, i ≠ .crcCalc n ∧ i ≠ .crcAcc n) → t.crc = s.crc) ∧
    (∀ j : BufIndex, (∀ k : WordIndex, i = .dwEncode (BitVec.ofNat 4 k.val) → j ≠ checkIndex k) → t.byte j = s.byte j) ∧
    (∀ k : WordIndex, checksWord i k = false → t.word[k] = s.word[k]) ∧
    (i ≠ .measExtract → t.co2 = s.co2 ∧ t.traw = s.traw ∧ t.hraw = s.hraw ∧ t.mstat = s.mstat) ∧
    (i ≠ .pidExtract → t.pid = s.pid) ∧ (i = .nop → t.status = s.status)

/-- An operation depends on no buffer byte but those it reads: replace the others at will, and every register it leaves is
the same, and so is every byte that was the same before (40_checksum.md, section 1; 41_dataword.md, sections 2 and 3; 42_extract.md, sections 1 and 2). An ill-formed term reads none (log
entry 11). -/
def Obligations.OperationsReadOnlyTheirBytes : Prop :=
  ∀ (i : Instr) (s : State) (m : Memory), (∀ j, readsByte i j = true → m.read j = s.byte j) →
    ∃ t u, exec i s = .next t ∧ exec i { s with buf := m } = .next u ∧ { u with buf := t.buf } = t ∧
      (∀ j, m.read j = s.byte j → u.byte j = t.byte j)

/-- The operations that check or encode words neither read nor write CRC: they do the same for every value of it
(10_state.md, section 4). -/
def Obligations.ChecksNeitherReadNorWriteCrc : Prop :=
  ∀ (i : Instr) (s : State) (c : Byte), (∀ n, i ≠ .crcCalc n ∧ i ≠ .crcAcc n) →
    ∃ t, exec i s = .next t ∧ t.crc = s.crc ∧ exec i { s with crc := c } = .next { t with crc := c }

/-- Every CTRL write but NOP rewrites the whole of STATUS: what STATUS held before makes no difference (10_state.md,
section 5). -/
def Obligations.StatusIsNotSticky : Prop :=
  ∀ (v w : Word) (s : State), decode v ≠ .ok .nop → issue v { s with status := w } = issue v s

/-- R26 to R30: when a CTRL write other than NOP sets each field of STATUS. -/
def Obligations.StatusFieldsFollowTheirRules : Prop :=
  ∀ (v : Word) (s : State), decode v ≠ .ok .nop → ∃ t, issue v s = .next t ∧
    (statusOk t.status = true ↔
      ∃ i, decode v = .ok i ∧ isChecking i = true ∧ ∀ k, checksWord i k = true → s.valid k = true) ∧
    (statusCrcErr t.status = true ↔
      ∃ i, decode v = .ok i ∧ isChecking i = true ∧ statusOk t.status = false) ∧
    (statusIdMatch t.status = true ↔
      decode v = .ok .pidExtract ∧ s.valid 0 = true ∧ s.valid 1 = true ∧
        s.byte 0 ++ (s.byte 1 ++ (s.byte 3 ++ s.byte 4)) = readValue s 0x03#5) ∧
    (statusIllegal t.status = true ↔ ∀ i, decode v ≠ .ok i) ∧
    (∀ k : WordIndex, (statusWfail t.status).getLsbD k.val = true ↔
      ∃ i, decode v = .ok i ∧ checksWord i k = true ∧ s.valid k = false)

/-- Issuing an operation twice gives the state that issuing it once gives, for every operation but CRC_ACC
(20_memory.md, section 4). -/
def Obligations.OperationsButCrcAccAreIdempotent : Prop :=
  ∀ (i : Instr) (s : State), (∀ n, i ≠ .crcAcc n) → ∃ t, exec i s = .next t ∧ exec i t = .next t

/-- A check that rejects leaves the results of the last accepted one: WORD, CO2, TRAW, HRAW and MSTAT keep their values, and
PID does but for PID_EXTRACT, which sets it to 0 (70_reset_and_hazards.md, section 2). -/
def Obligations.RejectedChecksLeaveStaleResults : Prop :=
  ∀ (i : Instr) (s : State), isChecking i = true → (∃ k, checksWord i k = true ∧ s.valid k = false) →
    ∃ t, exec i s = .next t ∧ statusCrcErr t.status = true ∧
      t = { s with status := t.status, pid := if i = .pidExtract then 0x00000000#32 else s.pid }

/-- R139: every check of the reset buffer fails, with every checked word's WFAIL bit set. -/
def Obligations.ResetBufferFailsEveryCheck : Prop :=
  (∀ j, State.reset.byte j = 0x00#8) ∧ crc8 [0x00#8, 0x00#8] = 0x81#8 ∧
  (∀ (i : Instr) (s : State), isChecking i = true → i.wellFormed = true → (∀ j, s.byte j = State.reset.byte j) →
    ∃ t, exec i s = .next t ∧ statusOk t.status = false ∧ statusCrcErr t.status = true ∧
      ∀ k : WordIndex, (statusWfail t.status).getLsbD k.val = checksWord i k)

/-! ### The host's side -/

/-- R109, R110, R114: the exact conversions, their ranges and their end points. -/
def Obligations.ConversionsAreExactRationals : Prop :=
  (∀ raw : Payload, temperature raw * 65536 = (raw.toNat : Rat) * 175 - 45 * 65536 ∧
    -45 ≤ temperature raw ∧ temperature raw ≤ 8519505 / 65536) ∧
  (∀ raw : Payload, humidity raw * 65536 = (raw.toNat : Rat) * 125 - 6 * 65536 ∧
    -6 ≤ humidity raw ∧ humidity raw ≤ 7798659 / 65536) ∧
  temperature 0x0000#16 = -45 ∧ temperature 0xFFFF#16 = 8519505 / 65536 ∧ temperature 0xFFFF#16 = 175 * 65535 / 65536 - 45 ∧
  humidity 0x0000#16 = -6 ∧ humidity 0xFFFF#16 = 7798659 / 65536 ∧ humidity 0xFFFF#16 = 125 * 65535 / 65536 - 6

/-- The measurement end to end, from the received bytes to the physical values the host computes, and that its
floating-point result is FLOAT_CONV of the exact one, whatever FLOAT_CONV is (42_extract.md, sections 1 and 3). -/
def Obligations.MeasurementEndToEnd : Prop :=
  ∀ s : State, (∀ k : WordIndex, s.valid k = true) → ∃ t, exec .measExtract s = .next t ∧
    t.measurement.co2 = 256 * (s.byte 0).toNat + (s.byte 1).toNat ∧
    t.measurement.temperature = ((256 * (s.byte 3).toNat + (s.byte 4).toNat : Nat) : Rat) * 175 / 65536 - 45 ∧
    t.measurement.humidity = ((256 * (s.byte 6).toNat + (s.byte 7).toNat : Nat) : Rat) * 125 / 65536 - 6 ∧
    t.measurement.status = s.byte 9 ++ s.byte 10 ∧
    t.hostTemperature = Config.floatConv t.measurement.temperature ∧
    t.hostHumidity = Config.floatConv t.measurement.humidity

/-- A host that loads every byte before the check that reads it sees check results that no earlier content of the buffer can
change: STATUS, WORD, CO2, TRAW, HRAW, MSTAT and PID are the same whatever the buffer held at the start; CRC, which no check
writes, is not among them
(70_reset_and_hazards.md, section 1; 41_dataword.md, section 3: stale bytes). What counts as loaded is the model's reading, log
entry 14. -/
def Obligations.LoadedChecksIgnoreTheOldBuffer : Prop :=
  ∀ (xs : List HostInput) (s : State) (m : Memory), loadsBeforeChecks (fun _ => false) xs = true →
    (serveAll xs s).status = (serveAll xs { s with buf := m }).status ∧
    (serveAll xs s).word = (serveAll xs { s with buf := m }).word ∧
    (serveAll xs s).co2 = (serveAll xs { s with buf := m }).co2 ∧
    (serveAll xs s).traw = (serveAll xs { s with buf := m }).traw ∧
    (serveAll xs s).hraw = (serveAll xs { s with buf := m }).hraw ∧
    (serveAll xs s).mstat = (serveAll xs { s with buf := m }).mstat ∧
    (serveAll xs s).pid = (serveAll xs { s with buf := m }).pid

/-- The pseudo-operation GENW builds a valid word from a payload, whatever the state (30_encoding.md, section 4). -/
def Obligations.GenwBuildsAValidWord : Prop :=
  ∀ (s : State) (k : WordIndex) (hi lo : Byte), ∃ xs, expandLine (.genw k hi lo) = some xs ∧
    (serveAll xs s).byte (hiIndex k) = hi ∧ (serveAll xs s).byte (loIndex k) = lo ∧ (serveAll xs s).valid k = true ∧
    (∀ j : BufIndex, j.val / 3 ≠ k.val → (serveAll xs s).byte j = s.byte j)
end

