-- ==== Sys2Proof/Laws/State.lean ====
section
/-! SUPPORT. One lemma per field per update of the state, so that no proof unfolds a record update. -/

namespace Sys2Proof.Machine

@[simp] theorem State.setByte_status (s : State) (i : BufIndex) (v : Byte) : (s.setByte i v).status = s.status := rfl
@[simp] theorem State.setByte_crc (s : State) (i : BufIndex) (v : Byte) : (s.setByte i v).crc = s.crc := rfl
@[simp] theorem State.setByte_buf (s : State) (i : BufIndex) (v : Byte) : (s.setByte i v).buf = s.buf.write i v := rfl
@[simp] theorem State.setByte_word (s : State) (i : BufIndex) (v : Byte) : (s.setByte i v).word = s.word := rfl
@[simp] theorem State.setByte_co2 (s : State) (i : BufIndex) (v : Byte) : (s.setByte i v).co2 = s.co2 := rfl
@[simp] theorem State.setByte_traw (s : State) (i : BufIndex) (v : Byte) : (s.setByte i v).traw = s.traw := rfl
@[simp] theorem State.setByte_hraw (s : State) (i : BufIndex) (v : Byte) : (s.setByte i v).hraw = s.hraw := rfl
@[simp] theorem State.setByte_mstat (s : State) (i : BufIndex) (v : Byte) : (s.setByte i v).mstat = s.mstat := rfl
@[simp] theorem State.setByte_pid (s : State) (i : BufIndex) (v : Byte) : (s.setByte i v).pid = s.pid := rfl
@[simp] theorem State.setByte_pending (s : State) (i : BufIndex) (v : Byte) : (s.setByte i v).pending = s.pending := rfl
@[simp] theorem State.setByte_reads (s : State) (i : BufIndex) (v : Byte) : (s.setByte i v).reads = s.reads := rfl

@[simp] theorem State.setStatus_status (s : State) (v : Word) : (s.setStatus v).status = v := rfl
@[simp] theorem State.setStatus_crc (s : State) (v : Word) : (s.setStatus v).crc = s.crc := rfl
@[simp] theorem State.setStatus_buf (s : State) (v : Word) : (s.setStatus v).buf = s.buf := rfl
@[simp] theorem State.setStatus_word (s : State) (v : Word) : (s.setStatus v).word = s.word := rfl
@[simp] theorem State.setStatus_co2 (s : State) (v : Word) : (s.setStatus v).co2 = s.co2 := rfl
@[simp] theorem State.setStatus_traw (s : State) (v : Word) : (s.setStatus v).traw = s.traw := rfl
@[simp] theorem State.setStatus_hraw (s : State) (v : Word) : (s.setStatus v).hraw = s.hraw := rfl
@[simp] theorem State.setStatus_mstat (s : State) (v : Word) : (s.setStatus v).mstat = s.mstat := rfl
@[simp] theorem State.setStatus_pid (s : State) (v : Word) : (s.setStatus v).pid = s.pid := rfl
@[simp] theorem State.setStatus_pending (s : State) (v : Word) : (s.setStatus v).pending = s.pending := rfl
@[simp] theorem State.setStatus_reads (s : State) (v : Word) : (s.setStatus v).reads = s.reads := rfl

@[simp] theorem State.setCrc_status (s : State) (v : Byte) : (s.setCrc v).status = s.status := rfl
@[simp] theorem State.setCrc_crc (s : State) (v : Byte) : (s.setCrc v).crc = v := rfl
@[simp] theorem State.setCrc_buf (s : State) (v : Byte) : (s.setCrc v).buf = s.buf := rfl
@[simp] theorem State.setCrc_word (s : State) (v : Byte) : (s.setCrc v).word = s.word := rfl
@[simp] theorem State.setCrc_co2 (s : State) (v : Byte) : (s.setCrc v).co2 = s.co2 := rfl
@[simp] theorem State.setCrc_traw (s : State) (v : Byte) : (s.setCrc v).traw = s.traw := rfl
@[simp] theorem State.setCrc_hraw (s : State) (v : Byte) : (s.setCrc v).hraw = s.hraw := rfl
@[simp] theorem State.setCrc_mstat (s : State) (v : Byte) : (s.setCrc v).mstat = s.mstat := rfl
@[simp] theorem State.setCrc_pid (s : State) (v : Byte) : (s.setCrc v).pid = s.pid := rfl
@[simp] theorem State.setCrc_pending (s : State) (v : Byte) : (s.setCrc v).pending = s.pending := rfl
@[simp] theorem State.setCrc_reads (s : State) (v : Byte) : (s.setCrc v).reads = s.reads := rfl

@[simp] theorem State.setWords_status (s : State) (w : Vector Payload 4) : (s.setWords w).status = s.status := rfl
@[simp] theorem State.setWords_crc (s : State) (w : Vector Payload 4) : (s.setWords w).crc = s.crc := rfl
@[simp] theorem State.setWords_buf (s : State) (w : Vector Payload 4) : (s.setWords w).buf = s.buf := rfl
@[simp] theorem State.setWords_word (s : State) (w : Vector Payload 4) : (s.setWords w).word = w := rfl
@[simp] theorem State.setWords_co2 (s : State) (w : Vector Payload 4) : (s.setWords w).co2 = s.co2 := rfl
@[simp] theorem State.setWords_traw (s : State) (w : Vector Payload 4) : (s.setWords w).traw = s.traw := rfl
@[simp] theorem State.setWords_hraw (s : State) (w : Vector Payload 4) : (s.setWords w).hraw = s.hraw := rfl
@[simp] theorem State.setWords_mstat (s : State) (w : Vector Payload 4) : (s.setWords w).mstat = s.mstat := rfl
@[simp] theorem State.setWords_pid (s : State) (w : Vector Payload 4) : (s.setWords w).pid = s.pid := rfl
@[simp] theorem State.setWords_pending (s : State) (w : Vector Payload 4) : (s.setWords w).pending = s.pending := rfl
@[simp] theorem State.setWords_reads (s : State) (w : Vector Payload 4) : (s.setWords w).reads = s.reads := rfl

@[simp] theorem State.setMeasurement_status (s : State) (c t h m : Payload) : (s.setMeasurement c t h m).status = s.status := rfl
@[simp] theorem State.setMeasurement_crc (s : State) (c t h m : Payload) : (s.setMeasurement c t h m).crc = s.crc := rfl
@[simp] theorem State.setMeasurement_buf (s : State) (c t h m : Payload) : (s.setMeasurement c t h m).buf = s.buf := rfl
@[simp] theorem State.setMeasurement_word (s : State) (c t h m : Payload) : (s.setMeasurement c t h m).word = s.word := rfl
@[simp] theorem State.setMeasurement_co2 (s : State) (c t h m : Payload) : (s.setMeasurement c t h m).co2 = c := rfl
@[simp] theorem State.setMeasurement_traw (s : State) (c t h m : Payload) : (s.setMeasurement c t h m).traw = t := rfl
@[simp] theorem State.setMeasurement_hraw (s : State) (c t h m : Payload) : (s.setMeasurement c t h m).hraw = h := rfl
@[simp] theorem State.setMeasurement_mstat (s : State) (c t h m : Payload) : (s.setMeasurement c t h m).mstat = m := rfl
@[simp] theorem State.setMeasurement_pid (s : State) (c t h m : Payload) : (s.setMeasurement c t h m).pid = s.pid := rfl
@[simp] theorem State.setMeasurement_pending (s : State) (c t h m : Payload) : (s.setMeasurement c t h m).pending = s.pending := rfl
@[simp] theorem State.setMeasurement_reads (s : State) (c t h m : Payload) : (s.setMeasurement c t h m).reads = s.reads := rfl

@[simp] theorem State.setPid_status (s : State) (v : Word) : (s.setPid v).status = s.status := rfl
@[simp] theorem State.setPid_crc (s : State) (v : Word) : (s.setPid v).crc = s.crc := rfl
@[simp] theorem State.setPid_buf (s : State) (v : Word) : (s.setPid v).buf = s.buf := rfl
@[simp] theorem State.setPid_word (s : State) (v : Word) : (s.setPid v).word = s.word := rfl
@[simp] theorem State.setPid_co2 (s : State) (v : Word) : (s.setPid v).co2 = s.co2 := rfl
@[simp] theorem State.setPid_traw (s : State) (v : Word) : (s.setPid v).traw = s.traw := rfl
@[simp] theorem State.setPid_hraw (s : State) (v : Word) : (s.setPid v).hraw = s.hraw := rfl
@[simp] theorem State.setPid_mstat (s : State) (v : Word) : (s.setPid v).mstat = s.mstat := rfl
@[simp] theorem State.setPid_pid (s : State) (v : Word) : (s.setPid v).pid = v := rfl
@[simp] theorem State.setPid_pending (s : State) (v : Word) : (s.setPid v).pending = s.pending := rfl
@[simp] theorem State.setPid_reads (s : State) (v : Word) : (s.setPid v).reads = s.reads := rfl

@[simp] theorem State.setPending_status (s : State) (p : List HostInput) : (s.setPending p).status = s.status := rfl
@[simp] theorem State.setPending_crc (s : State) (p : List HostInput) : (s.setPending p).crc = s.crc := rfl
@[simp] theorem State.setPending_buf (s : State) (p : List HostInput) : (s.setPending p).buf = s.buf := rfl
@[simp] theorem State.setPending_word (s : State) (p : List HostInput) : (s.setPending p).word = s.word := rfl
@[simp] theorem State.setPending_co2 (s : State) (p : List HostInput) : (s.setPending p).co2 = s.co2 := rfl
@[simp] theorem State.setPending_traw (s : State) (p : List HostInput) : (s.setPending p).traw = s.traw := rfl
@[simp] theorem State.setPending_hraw (s : State) (p : List HostInput) : (s.setPending p).hraw = s.hraw := rfl
@[simp] theorem State.setPending_mstat (s : State) (p : List HostInput) : (s.setPending p).mstat = s.mstat := rfl
@[simp] theorem State.setPending_pid (s : State) (p : List HostInput) : (s.setPending p).pid = s.pid := rfl
@[simp] theorem State.setPending_pending (s : State) (p : List HostInput) : (s.setPending p).pending = p := rfl
@[simp] theorem State.setPending_reads (s : State) (p : List HostInput) : (s.setPending p).reads = s.reads := rfl

@[simp] theorem State.pushRead_status (s : State) (v : Word) : (s.pushRead v).status = s.status := rfl
@[simp] theorem State.pushRead_crc (s : State) (v : Word) : (s.pushRead v).crc = s.crc := rfl
@[simp] theorem State.pushRead_buf (s : State) (v : Word) : (s.pushRead v).buf = s.buf := rfl
@[simp] theorem State.pushRead_word (s : State) (v : Word) : (s.pushRead v).word = s.word := rfl
@[simp] theorem State.pushRead_co2 (s : State) (v : Word) : (s.pushRead v).co2 = s.co2 := rfl
@[simp] theorem State.pushRead_traw (s : State) (v : Word) : (s.pushRead v).traw = s.traw := rfl
@[simp] theorem State.pushRead_hraw (s : State) (v : Word) : (s.pushRead v).hraw = s.hraw := rfl
@[simp] theorem State.pushRead_mstat (s : State) (v : Word) : (s.pushRead v).mstat = s.mstat := rfl
@[simp] theorem State.pushRead_pid (s : State) (v : Word) : (s.pushRead v).pid = s.pid := rfl
@[simp] theorem State.pushRead_pending (s : State) (v : Word) : (s.pushRead v).pending = s.pending := rfl
@[simp] theorem State.pushRead_reads (s : State) (v : Word) : (s.pushRead v).reads = s.reads ++ [v] := rfl

end Sys2Proof.Machine
end

