-- ==== Sys2Proof/Laws/Memory.lean ====
section
/-! SUPPORT. The laws of the receive buffer: read after write, and every operation keeps the canonical form. -/

namespace Sys2Proof.Machine

/-- The two conditions of the canonical form, as propositions. -/
theorem Memory.wf_iff (m : Memory) :
    m.wf = true ↔ m.Pairwise (fun c d => c.1 < d.1) ∧ ∀ c ∈ m, c.1 < 12 ∧ c.2 ≠ Memory.unlisted := by
  simp [Memory.wf]

theorem Memory.readCell_insertCell_same (a : Nat) (v : Byte) (m : Memory) (h : ∀ c ∈ m, c.1 ≠ a) :
    (Memory.insertCell a v m).readCell a = v := by
  induction m with
  | nil => simp [Memory.insertCell, Memory.readCell]
  | cons c rest ih =>
    simp only [Memory.insertCell]
    split
    · simp [Memory.readCell]
    · simp [Memory.readCell, h c (by simp), ih fun d hd => h d (by simp [hd])]

theorem Memory.readCell_insertCell_other (a b : Nat) (v : Byte) (m : Memory) (h : a ≠ b) :
    (Memory.insertCell a v m).readCell b = m.readCell b := by
  induction m with
  | nil => simp [Memory.insertCell, Memory.readCell, h]
  | cons c rest ih =>
    simp only [Memory.insertCell]
    split
    · simp [Memory.readCell, h]
    · simp [Memory.readCell, ih]

theorem Memory.readCell_filter_same (a : Nat) (m : Memory) :
    Memory.readCell a (m.filter fun c => c.1 != a) = Memory.unlisted := by
  induction m with
  | nil => rfl
  | cons c rest ih =>
    by_cases hc : c.1 = a
    · simpa [List.filter_cons, hc] using ih
    · simpa [List.filter_cons, hc, Memory.readCell] using ih

theorem Memory.readCell_filter_other (a b : Nat) (m : Memory) (h : a ≠ b) :
    Memory.readCell b (m.filter fun c => c.1 != a) = m.readCell b := by
  induction m with
  | nil => rfl
  | cons c rest ih =>
    by_cases hc : c.1 = a
    · have hb : ¬ c.1 = b := fun e => h (hc ▸ e)
      have hf : (c :: rest).filter (fun c => c.1 != a) = rest.filter (fun c => c.1 != a) := by simp [hc]
      rw [hf, ih, Memory.readCell, if_neg hb]
    · simp [hc, Memory.readCell, ih]

/-- A read after a write to the same index gives the value written, in any memory. -/
@[simp] theorem Memory.read_write_same (m : Memory) (i : BufIndex) (v : Byte) : (m.write i v).read i = v := by
  simp only [Memory.read, Memory.write]
  split
  · next h => rw [Memory.readCell_filter_same, h]
  · exact Memory.readCell_insertCell_same _ _ _ (by simp)

/-- A write leaves every other index alone, in any memory. -/
theorem Memory.read_write_other (m : Memory) (i j : BufIndex) (v : Byte) (h : i ≠ j) :
    (m.write i v).read j = m.read j := by
  have hij : i.val ≠ j.val := fun e => h (Fin.ext e)
  simp only [Memory.read, Memory.write]
  split
  · exact Memory.readCell_filter_other _ _ _ hij
  · rw [Memory.readCell_insertCell_other _ _ _ _ hij, Memory.readCell_filter_other _ _ _ hij]

theorem Memory.mem_insertCell (a : Nat) (v : Byte) (m : Memory) (c : Host.Cell) :
    c ∈ Memory.insertCell a v m ↔ c = (a, v) ∨ c ∈ m := by
  induction m with
  | nil => simp [Memory.insertCell]
  | cons d rest ih =>
    simp only [Memory.insertCell]
    split
    · simp
    · simp [ih, or_left_comm]

theorem Memory.insertCell_pairwise (a : Nat) (v : Byte) (m : Memory) (hm : m.Pairwise (fun c d => c.1 < d.1))
    (ha : ∀ c ∈ m, c.1 ≠ a) : (Memory.insertCell a v m).Pairwise (fun c d => c.1 < d.1) := by
  induction m with
  | nil => simp [Memory.insertCell]
  | cons d rest ih =>
    rw [List.pairwise_cons] at hm
    simp only [Memory.insertCell]
    split
    · next hlt =>
      refine List.pairwise_cons.2 ⟨fun c hc => ?_, List.pairwise_cons.2 hm⟩
      rcases List.mem_cons.1 hc with rfl | hc
      · exact hlt
      · exact Nat.lt_trans hlt (hm.1 c hc)
    · next hge =>
      refine List.pairwise_cons.2 ⟨fun c hc => ?_, ih hm.2 fun c hc => ha c (by simp [hc])⟩
      rcases (Memory.mem_insertCell a v rest c).1 hc with rfl | hc
      · exact Nat.lt_of_le_of_ne (Nat.le_of_not_lt hge) (ha d (by simp))
      · exact hm.1 c hc

/-- Writing a byte keeps the canonical form. -/
theorem Memory.write_wf (m : Memory) (i : BufIndex) (v : Byte) (h : m.wf = true) : (m.write i v).wf = true := by
  rw [Memory.wf_iff] at h ⊢
  have hp := h.1.filter (fun c => c.1 != i.val)
  have hall : ∀ c ∈ m.filter (fun c => c.1 != i.val), c.1 < 12 ∧ c.2 ≠ Memory.unlisted :=
    fun c hc => h.2 c (List.mem_of_mem_filter hc)
  simp only [Memory.write]
  split
  · exact ⟨hp, hall⟩
  · next hv =>
    refine ⟨Memory.insertCell_pairwise _ _ _ hp (by simp), fun c hc => ?_⟩
    rcases (Memory.mem_insertCell _ _ _ c).1 hc with rfl | hc
    · exact ⟨i.isLt, hv⟩
    · exact hall c hc

/-- The reset buffer is in the canonical form. -/
theorem State.reset_buf_wf : State.reset.buf.wf = true := rfl

@[simp] theorem State.setByte_byte_same (s : State) (i : BufIndex) (v : Byte) : (s.setByte i v).byte i = v :=
  Memory.read_write_same _ _ _

theorem State.setByte_byte_other (s : State) (i j : BufIndex) (v : Byte) (h : i ≠ j) :
    (s.setByte i v).byte j = s.byte j := Memory.read_write_other _ _ _ _ h

@[simp] theorem State.setStatus_byte (s : State) (v : Word) (i : BufIndex) : (s.setStatus v).byte i = s.byte i := rfl
@[simp] theorem State.setCrc_byte (s : State) (v : Byte) (i : BufIndex) : (s.setCrc v).byte i = s.byte i := rfl
@[simp] theorem State.setWords_byte (s : State) (w : Vector Payload 4) (i : BufIndex) :
    (s.setWords w).byte i = s.byte i := rfl
@[simp] theorem State.setMeasurement_byte (s : State) (c t h m : Payload) (i : BufIndex) :
    (s.setMeasurement c t h m).byte i = s.byte i := rfl
@[simp] theorem State.setPid_byte (s : State) (v : Word) (i : BufIndex) : (s.setPid v).byte i = s.byte i := rfl
@[simp] theorem State.setPending_byte (s : State) (p : List HostInput) (i : BufIndex) :
    (s.setPending p).byte i = s.byte i := rfl
@[simp] theorem State.pushRead_byte (s : State) (v : Word) (i : BufIndex) : (s.pushRead v).byte i = s.byte i := rfl

/-- Every byte of the reset buffer is 0x00 (R42). -/
@[simp] theorem State.reset_byte (i : BufIndex) : State.reset.byte i = 0x00#8 := rfl

end Sys2Proof.Machine
end

