-- ==== Sys2Proof/Laws/Ops.lean ====
section
/-! SUPPORT. One specification lemma per shared operation, to be cited instead of unfolding it. -/

namespace Sys2Proof.Machine

/-- `MemRead(3k, 2)` is the two payload bytes, the high one first (R49). -/
theorem State.payload_eq (s : State) (k : WordIndex) :
    s.payload k = s.byte (hiIndex k) ++ s.byte (loIndex k) := by
  simp only [State.payload, State.memRead, hiIndex, loIndex]
  ext j hj
  simp

/-- `MemRead(3k+2, 1)` is the check byte. -/
theorem State.check_eq (s : State) (k : WordIndex) : s.check k = s.byte (checkIndex k) := by
  simp only [State.check, State.memRead, checkIndex]
  ext j hj
  simp

/-- A word is valid exactly when its check byte is the checksum of its payload (R89). -/
theorem State.valid_iff (s : State) (k : WordIndex) :
    s.valid k = true ↔ crc8 [s.byte (hiIndex k), s.byte (loIndex k)] = s.byte (checkIndex k) := by
  simp [State.valid, State.payloadCrc, State.check_eq]

/-- The first n bytes, one by one. -/
theorem State.bytes_getElem? (s : State) (n : Nat) (i : BufIndex) (h : i.val < n) :
    (s.bytes n)[i.val]? = some (s.byte i) := by
  simp [State.bytes, h]

/-- There are n of them, for every legal byte count. -/
theorem State.bytes_length (s : State) (n : Nat) (h : n ≤ 12) : (s.bytes n).length = n := by
  simp [State.bytes, h]

/-- Two states with the same first n bytes give the same byte sequence. -/
theorem State.bytes_congr (s t : State) (n : Nat) (h : ∀ i : BufIndex, i.val < n → s.byte i = t.byte i) :
    s.bytes n = t.bytes n := by
  refine List.ext_getElem? fun j => ?_
  simp only [State.bytes, List.getElem?_take, List.getElem?_map]
  split
  · next hj =>
    by_cases hb : j < 12
    · have := h ⟨j, hb⟩ hj
      simp [hb, this]
    · simp [hb]
  · rfl

/-- The words a frame write leaves: the payloads of words 0 to n-1, and the others as before (R96). -/
theorem State.writeWords_word (s : State) (n : Nat) (k : WordIndex) :
    (s.writeWords n).word[k] = if k.val < n then s.payload k else s.word[k] := by
  simp [State.writeWords]

/-- A frame write changes the WORD registers alone. -/
theorem State.writeWords_eq (s : State) (n : Nat) : s.writeWords n = { s with word := (s.writeWords n).word } := rfl

/-- The words a single-word write leaves (R91). -/
theorem State.writeWord_word (s : State) (k j : WordIndex) :
    (s.writeWord k).word[j] = if j = k then s.payload k else s.word[j] := by
  simp [State.writeWord, Vector.getElem_set, Fin.ext_iff, eq_comm]

/-- A single-word write changes the WORD registers alone. -/
theorem State.writeWord_eq (s : State) (k : WordIndex) : s.writeWord k = { s with word := (s.writeWord k).word } := rfl

/-- Bit k of the mask says whether word k was checked and invalid (R96). -/
theorem State.failMask_bit (s : State) (n : Nat) (k : WordIndex) :
    (s.failMask n).getLsbD k.val = (decide (k.val < n) && !s.valid k) := by
  have h : ∀ a b c d : Bool, ∀ j : Fin 4,
      (concat (BitVec.ofBool a) (concat (BitVec.ofBool b) (concat (BitVec.ofBool c) (BitVec.ofBool d)))).getLsbD j.val
        = (match j with | 0 => d | 1 => c | 2 => b | 3 => a) := by decide
  have := h (s.laneFails n 3) (s.laneFails n 2) (s.laneFails n 1) (s.laneFails n 0) k
  rw [State.failMask, this]
  match k with
  | 0 => rfl
  | 1 => rfl
  | 2 => rfl
  | 3 => rfl

/-- The mask is empty exactly when every checked word is valid (R95). -/
theorem State.failMask_eq_zero (s : State) (n : Nat) :
    s.failMask n = 0x0#4 ↔ ∀ k : WordIndex, k.val < n → s.valid k = true := by
  constructor
  · intro h k hk
    have := s.failMask_bit n k
    rw [h] at this
    simpa [hk] using this.symm
  · intro h
    have hl : ∀ k : WordIndex, s.laneFails n k = false := fun k => by
      by_cases hk : k.val < n
      · simp [State.laneFails, h k hk]
      · simp [State.laneFails, hk]
    simp [State.failMask, hl, concat]

/-- Raising an error writes STATUS alone (R122, R123). -/
theorem raiseError_eq (e : BlockError) (s : State) : raiseError e s = { s with status := errorStatus e } := rfl

/-- How a checking operation ends: accepted, or ChecksumError in the rejected state. -/
theorem concludeCheck_cases (fail : Nibble) (accepted rejected : State) :
    (fail = 0x0#4 ∧ concludeCheck fail accepted rejected = accepted) ∨
    (fail ≠ 0x0#4 ∧ concludeCheck fail accepted rejected = { rejected with status := statusChecksumError fail }) := by
  by_cases h : fail = 0x0#4
  · exact .inl ⟨h, if_pos h⟩
  · exact .inr ⟨h, if_neg h⟩

/-- What an operation with an operand can do: its effect, or IllegalOperation where the operand is illegal (R68). -/
theorem withOperand_cases {α : Type} (operand : Option α) (s : State) (op : α → State) :
    (∃ a, operand = some a ∧ withOperand operand s op = .next (op a)) ∨
    (operand = none ∧ withOperand operand s op = .next { s with status := 0x00000008#32 }) := by
  cases operand with
  | none => exact .inr ⟨rfl, rfl⟩
  | some a => exact .inl ⟨a, rfl, rfl⟩

theorem byteCount_eq_some (arg : Nibble) (n : Nat) : byteCount arg = some n ↔ n = arg.toNat ∧ arg.toNat ≤ 12 := by
  simp only [byteCount]; split <;> simp_all [eq_comm]

theorem byteCount_eq_none (arg : Nibble) : byteCount arg = none ↔ 12 < arg.toNat := by
  simp only [byteCount]; split <;> simp <;> omega

theorem wordIndex_eq_some (arg : Nibble) (k : WordIndex) : wordIndex arg = some k ↔ arg.toNat = k.val := by
  simp only [wordIndex]
  split
  · simp [Fin.ext_iff]
  · simp; omega

theorem wordIndex_eq_none (arg : Nibble) : wordIndex arg = none ↔ 4 ≤ arg.toNat := by
  simp only [wordIndex]; split <;> simp <;> omega

theorem wordCount_eq_some (arg : Nibble) (n : Nat) :
    wordCount arg = some n ↔ n = arg.toNat ∧ 1 ≤ arg.toNat ∧ arg.toNat ≤ 4 := by
  simp only [wordCount]; split <;> simp_all [eq_comm]

theorem wordCount_eq_none (arg : Nibble) : wordCount arg = none ↔ arg.toNat = 0 ∨ 4 < arg.toNat := by
  simp only [wordCount]; split <;> simp <;> omega

/-! The STATUS values of R125. -/

@[simp] theorem statusDone_eq : statusDone = 0x00000000#32 := rfl
@[simp] theorem statusAccepted_eq : statusAccepted = 0x00000001#32 := rfl
@[simp] theorem statusIllegalOperation_eq : statusIllegalOperation = 0x00000008#32 := rfl
@[simp] theorem statusIdentified_true : statusIdentified true = 0x00000005#32 := rfl
@[simp] theorem statusIdentified_false : statusIdentified false = 0x00000001#32 := rfl

/-- The value of R122: `zext_32(concat(mask, 0b0010))`. -/
theorem statusChecksumError_eq (mask : Nibble) : statusChecksumError mask = zext 32 (concat mask 0b0010#4) := by
  revert mask; decide

end Sys2Proof.Machine
end

