-- ==== Sys2Proof/Laws/PerInstr.lean ====
section
/-! SUPPORT. Statements about every instruction as syntax, one lemma per constructor. -/

namespace Sys2Proof.Laws.WordFields

/-- The word of an operation holds its OP and ARG in their fields and 0 in RSV (R65, R66), whatever the operand. -/
def Statement (i : Instr) : Prop :=
  opField (encode i) = opcodeOf i ∧ argField (encode i) = operandOf i ∧ rsvField (encode i) = 0#24

theorem of_fields (arg op : Nibble) :
    opField (zext 32 (concat arg op)) = op ∧ argField (zext 32 (concat arg op)) = arg ∧
      rsvField (zext 32 (concat arg op)) = 0#24 := by
  revert arg op; decide

theorem nop : Statement .nop := of_fields _ _
theorem crcCalc (n : Nibble) : Statement (.crcCalc n) := of_fields _ _
theorem crcAcc (n : Nibble) : Statement (.crcAcc n) := of_fields _ _
theorem dwEncode (k : Nibble) : Statement (.dwEncode k) := of_fields _ _
theorem dwCheck (k : Nibble) : Statement (.dwCheck k) := of_fields _ _
theorem frameCheck (n : Nibble) : Statement (.frameCheck n) := of_fields _ _
theorem measExtract : Statement .measExtract := of_fields _ _
theorem pidExtract : Statement .pidExtract := of_fields _ _

end Sys2Proof.Laws.WordFields
end

