-- ==== Sys2Proof/Laws/Runs.lean ====
section
/-! SUPPORT. The small lemmas of performing, expanding and replaying lists of inputs. -/

namespace Sys2Proof.Machine

@[simp] theorem serveAll_nil (s : State) : serveAll [] s = s := rfl

/-- One input that goes on, and then the rest. -/
theorem serveAll_cons (x : HostInput) (xs : List HostInput) (s t : State) (h : serve x s = .next t) :
    serveAll (x :: xs) s = serveAll xs t := by
  simp [serveAll, h]

@[simp] theorem bytesAfterAll_nil (b : BufIndex → Byte) : bytesAfterAll b [] = b := rfl

@[simp] theorem bytesAfterAll_cons (b : BufIndex → Byte) (x : HostInput) (xs : List HostInput) :
    bytesAfterAll b (x :: xs) = bytesAfterAll (bytesAfter b x) xs := rfl

/-- Replaying two lists one after the other. -/
theorem bytesAfterAll_append (b : BufIndex → Byte) (xs ys : List HostInput) :
    bytesAfterAll b (xs ++ ys) = bytesAfterAll (bytesAfterAll b xs) ys := by
  induction xs generalizing b with
  | nil => rfl
  | cons x xs ih => exact ih _

/-- A host program expands part by part: where both parts expand, so does the whole, to one after the other. -/
theorem expandProgram_append (p q : List HostLine) (xs ys : List HostInput)
    (hp : expandProgram p = some xs) (hq : expandProgram q = some ys) :
    expandProgram (p ++ q) = some (xs ++ ys) := by
  induction p generalizing xs with
  | nil => cases hp; exact hq
  | cons x p ih =>
    simp only [expandProgram, Option.bind_eq_some_iff, Option.map_eq_some_iff] at hp
    obtain ⟨l, hl, m, hm, rfl⟩ := hp
    simp [expandProgram, hl, ih m hm]

end Sys2Proof.Machine
end

