-- ==== Sys2Proof/Tests/Slice0.lean ====
section
/-! SUPPORT. The model's own tests, and for every statement with hypotheses a state and operands that meet them. The expected
values are those of spec/95_test_vectors.md, which were computed from the rules outside this model. -/

namespace Sys2Proof.Tests

set_option maxRecDepth 4000

open Sys2Proof Sys2Proof.Machine

/-- The reset state with the first bytes of the buffer loaded. -/
def withBytes (bs : List Byte) : State :=
  { State.reset with buf := (List.finRange 12).foldl (fun m i => m.write i (bs.getD i.val 0x00#8)) [] }

/-- The buffer M of V-L1-3: four valid words. -/
def scenario : State :=
  withBytes [0x01#8, 0x02#8, 0x17#8, 0x66#8, 0x66#8, 0x93#8, 0x80#8, 0x00#8, 0xA2#8, 0x12#8, 0x34#8, 0x37#8]

/-- M with word 3's check byte corrupted (V-L1-2). -/
def corrupted : State :=
  withBytes [0x01#8, 0x02#8, 0x17#8, 0x66#8, 0x66#8, 0x93#8, 0x80#8, 0x00#8, 0xA2#8, 0x12#8, 0x34#8, 0xB7#8]

/-- The product-ID response with the expected ID (V-L1-7). -/
def identified : State := withBytes [0x09#8, 0x01#8, 0x73#8, 0x01#8, 0x8A#8, 0xD4#8]

/-- The next state, where there is one. -/
def after (o : StepOutcome) : Option State :=
  match o with
  | .next s => some s
  | .fault _ => none
  | .refused _ => none

/-! ### WellFormed refuses an ill-formed term of each check -/

theorem test_wellFormed_crcCalc : (Instr.crcCalc 13).wellFormed = false := by decide
theorem test_wellFormed_crcAcc : (Instr.crcAcc 13).wellFormed = false := by decide
theorem test_wellFormed_dwEncode : (Instr.dwEncode 4).wellFormed = false := by decide
theorem test_wellFormed_dwCheck : (Instr.dwCheck 4).wellFormed = false := by decide
theorem test_wellFormed_frameCheck_empty : (Instr.frameCheck 0).wellFormed = false := by decide
theorem test_wellFormed_frameCheck_long : (Instr.frameCheck 5).wellFormed = false := by decide

/-! ### Words written out from R65 and R66: RSV (24 bits), ARG (4 bits), OP (4 bits) -/

theorem test_decode_nop : decode 0b00000000000000000000000000000000#32 = .ok .nop := by decide
theorem test_decode_crcCalc : decode 0b00000000000000000000000011000001#32 = .ok (.crcCalc 12) := by decide
theorem test_decode_crcAcc : decode 0b00000000000000000000000001000010#32 = .ok (.crcAcc 4) := by decide
theorem test_decode_dwEncode : decode 0b00000000000000000000000000110011#32 = .ok (.dwEncode 3) := by decide
theorem test_decode_dwCheck : decode 0b00000000000000000000000000100100#32 = .ok (.dwCheck 2) := by decide
theorem test_decode_frameCheck : decode 0b00000000000000000000000000010101#32 = .ok (.frameCheck 1) := by decide
theorem test_decode_measExtract : decode 0b00000000000000000000000000000110#32 = .ok .measExtract := by decide
theorem test_decode_pidExtract : decode 0b00000000000000000000000000000111#32 = .ok .pidExtract := by decide

/-! 95_test_vectors.md, section 2.6: illegal values, refused by name. -/

theorem test_decode_nop_with_arg : decode 0x00000010#32 = .error (.illegalOperand 0 1) := by decide
theorem test_decode_reserved_op : decode 0x0000000F#32 = .error (.reservedOpcode 15) := by decide
theorem test_decode_reserved_bits : decode 0x00000106#32 = .error (.reservedBits 1) := by decide
theorem test_decode_dwCheck_four : decode 0x00000044#32 = .error (.illegalOperand 4 4) := by decide
theorem test_table_word : decodeTableWord 32 0x25 = some (.frameCheck 2) := by decide

/-! ### The checksum (95_test_vectors.md, section 2.1) -/

theorem test_crc8_empty : crc8 [] = 0xFF#8 := by decide
theorem test_crc8_measurement : crc8 [0x01#8, 0x02#8] = 0x17#8 := by decide
theorem test_crc8_order : crc8 [0x01#8, 0x00#8] = 0x75#8 ∧ crc8 [0x00#8, 0x01#8] = 0xB0#8 := by decide

/-! ### One step each (95_test_vectors.md, sections 1 and 2) -/

theorem test_nop_keeps_status :
    (after (exec .nop { State.reset with status := 0x12#32 })).map (·.status) = some 0x12#32 := by decide

theorem test_crcCalc_five : (after (exec (.crcCalc 5) scenario)).map (·.crc) = some 0x12#8 := by decide

theorem test_crcCalc_whole_buffer : (after (exec (.crcCalc 12) scenario)).map (·.crc) = some 0x74#8 := by decide

theorem test_crcAcc_from_zero :
    (after (exec (.crcAcc 2) { withBytes [0x01#8, 0x02#8] with crc := 0x00#8 })).map (·.crc) = some 0x96#8 := by decide

theorem test_crcAcc_nothing :
    (after (exec (.crcAcc 0) { State.reset with crc := 0x17#8 })).map (·.crc) = some 0x17#8 := by decide

theorem test_dwEncode_last_word :
    (after (exec (.dwEncode 3) (withBytes [0, 0, 0, 0, 0, 0, 0, 0, 0, 0xAB#8, 0xCD#8, 0x00#8]))).map (·.buf) =
      some [(9, 0xAB#8), (10, 0xCD#8), (11, 0x6F#8)] := by decide

theorem test_dwEncode_zero_payload :
    (after (exec (.dwEncode 0) State.reset)).map (fun t => t.byte 2) = some 0x81#8 := by decide

theorem test_dwCheck_last_word :
    (after (exec (.dwCheck 3) scenario)).map (fun t => (t.status, t.word[3])) = some (0x01#32, 0x1234#16) := by decide

theorem test_dwCheck_reset_buffer : (after (exec (.dwCheck 0) State.reset)).map (·.status) = some 0x12#32 := by decide

theorem test_frameCheck_bad_word_beyond :
    (after (exec (.frameCheck 2) corrupted)).map (fun t => (t.status, t.word[1])) = some (0x01#32, 0x6666#16) := by decide

theorem test_frameCheck_bad_last_word :
    (after (exec (.frameCheck 4) corrupted)).map (fun t => (t.status, t.word[0])) = some (0x82#32, 0x0000#16) := by decide

theorem test_measExtract_scenario :
    (after (exec .measExtract scenario)).map (fun t => (t.co2, t.traw, t.hraw, t.mstat)) =
      some (0x0102#16, 0x6666#16, 0x8000#16, 0x1234#16) := by decide

theorem test_measExtract_reset_buffer : (after (exec .measExtract State.reset)).map (·.status) = some 0xF2#32 := by decide

theorem test_pidExtract_matches :
    (after (exec .pidExtract identified)).map (fun t => (t.status, t.pid)) = some (0x05#32, 0x0901018A#32) := by decide

theorem test_pidExtract_sentinel :
    (after (exec .pidExtract { identified with buf := identified.buf.write 4 0x8B#8, pid := 0x12345678#32 })).map
      (fun t => (t.status, t.pid)) = some (0x22#32, 0x00000000#32) := by decide

/-! ### The host port (95_test_vectors.md, section 2.7) -/

theorem test_write_keeps_low_byte :
    (after (writeSlot 0x04#5 0x000001FF#32 State.reset)).map (fun t => readValue t 0x04#5) = some 0x000000FF#32 := by decide

theorem test_status_is_read_only : after (writeSlot 0x01#5 0xFFFFFFFF#32 State.reset) = some State.reset := by decide

theorem test_reset_reads :
    readValue State.reset 0x1A#5 = 0x00#32 ∧ readValue State.reset 0x00#5 = 0x00#32 ∧
      readValue State.reset 0x03#5 = 0x0901018A#32 ∧ readValue State.reset 0x02#5 = 0xFF#32 := by decide

theorem test_step_runs_fetched_word :
    (after (step (scenario.withFetchWord 32 0x35))).map (fun t => (t.status, t.pending)) = some (0x01#32, []) := by decide

theorem test_step_illegal_word :
    (after (step (scenario.withFetchWord 32 0xD1))).map (fun t => (t.status, t.crc)) = some (0x08#32, 0xFF#8) := by decide

/-! ### The chain of R79 cuts a message at every 12 bytes -/

theorem test_checksumProgram_cuts_at_twelve :
    checksumProgram (List.replicate 25 0x31#8) =
      [.loadb 0 (List.replicate 12 0x31#8), .op (.crcCalc 12), .loadb 0 (List.replicate 12 0x31#8), .op (.crcAcc 12),
        .loadb 0 [0x31#8], .op (.crcAcc 1)] := by decide

/-! ### The host's conversions (95_test_vectors.md, section 2.5) -/

theorem test_temperature : temperature 0x6666#16 = 819165 / 32768 := by norm_num [temperature]
theorem test_humidity : humidity 0x1234#16 = 47321 / 16384 := by norm_num [humidity]

/-! ### Witnesses: states and operands that meet a statement's hypotheses, clause by clause, at a boundary of each range -/

theorem witness_EncodeOfDecodeGivesTheWord : decode 0x000000C1#32 = .ok (.crcCalc 12) := by decide

theorem witness_DecodeFollowsTheCaseTable :
    256 ≤ (0x00000100#32).toNat ∧ (decode 0x00000055#32).toOption = none := by decide

theorem witness_IllegalValuesRaiseIllegalOperation :
    8 ≤ (0x00000008#32).toNat % 16 ∧
    ((0x00000010#32).toNat % 16 = 0 ∧ (0x00000010#32).toNat / 16 % 16 ≠ 0) ∧
    ((0x000000D2#32).toNat % 16 = 2 ∧ 13 ≤ (0x000000D2#32).toNat / 16 % 16) ∧
    ((0x00000043#32).toNat % 16 = 3 ∧ 4 ≤ (0x00000043#32).toNat / 16 % 16) ∧
    ((0x00000005#32).toNat % 16 = 5 ∧ (0x00000005#32).toNat / 16 % 16 = 0) ∧
    ((0x00000055#32).toNat % 16 = 5 ∧ 5 ≤ (0x00000055#32).toNat / 16 % 16) ∧
    (0x00000106#32).toNat / 256 ≠ 0 := by decide

theorem witness_IllFormedOperationsRaiseIllegalOperation :
    (Instr.frameCheck 0).wellFormed = false ∧ (Instr.crcAcc 13).wellFormed = false := by decide

theorem witness_AssemblerRefusesIllegalOperands : assemble (.frameCheck 4) = some 0x00000045#32 := by decide

theorem witness_StepRunsTheDecodedOperation :
    (scenario.withFetchWord 32 0x06).pending = .write 0x00#5 0x00000006#32 :: [] ∧ decode 0x00000006#32 = .ok .measExtract ∧
    (scenario.withFetchWord 32 0x16).pending = .write 0x00#5 0x00000016#32 :: [] ∧
      decode 0x00000016#32 = .error (.illegalOperand 6 1) := by decide

theorem witness_StepOnAReadHasNoSideEffect :
    ({ scenario with pending := [.read 0x1F#5] } : State).pending = .read 0x1F#5 :: [] := rfl

theorem witness_StepOnResetSetsEveryRegister :
    ({ scenario with pending := [.reset, .read 0x01#5] } : State).pending = .reset :: [.read 0x01#5] := rfl

theorem witness_RegisterMapIsOneToOne : regAt 0x18#5 = some .pid ∧ regAt 0x0F#5 = some (.b 11) := by decide

theorem witness_HostReadValues : legalStatus 0x000000F2#32 ∧ 0x19 ≤ (0x19#5).toNat :=
  ⟨.inr (.inr (.inr (.inr ⟨0xF#4, by decide, by decide⟩))), by decide⟩

theorem witness_OtherHostWritesAreIgnored :
    (0x01 ≤ (0x01#5).toNat ∧ (0x01#5).toNat ≤ 0x03) ∧ (0x01 ≤ (0x03#5).toNat ∧ (0x03#5).toNat ≤ 0x03) ∧
      0x10 ≤ (0x10#5).toNat ∧ 0x10 ≤ (0x1F#5).toNat := by decide

theorem witness_HostAddressesAreOffsetsFromTheBase :
    slotAtHostAddress 100 131 = some 0x1F#5 ∧ 99 < 100 ∧ 100 + 32 ≤ 132 := by decide

theorem witness_StepKeepsTheInvariant :
    State.reset.Inv ∧ after (step (State.reset.withFetchWord 32 0x45)) = some { State.reset with status := 0x000000F2#32 } :=
  ⟨⟨rfl, .inl rfl⟩, by decide⟩

theorem witness_CanonicalBuffersThatReadTheSameAreEqual :
    scenario.buf.wf = true ∧ ∀ i, scenario.buf.read i = scenario.buf.read i := by decide

theorem witness_BufferHoldsTheLastWrittenByte :
    [HostInput.write 0x04#5 0x00000101#32, .read 0x04#5, .reset, .write 0x0F#5 0x00000007#32, .write 0x00#5 0x00000006#32].map
      issuesOperation = [none, none, none, none, some .measExtract] := by decide

theorem witness_InterleavedHostsRace : 0x18#8 ≠ crc8 [0x01#8, 0x02#8] := by decide

theorem witness_EveryMessageChecksumCanBeComputed :
    (List.replicate 12 0x31#8).length ≤ 12 ∧ ∀ c ∈ [[], List.replicate 12 0x32#8, [0x33#8]], c.length ≤ 12 := by decide

theorem witness_CrcCalcFollowsItsRule :
    (12#4).toNat ≤ 12 ∧ 13 ≤ (13#4).toNat ∧ scenario.valid 0 = true ∧
      (withBytes [0xBE#8, 0xEF#8]).byte 0 = 0xBE#8 ∧ (withBytes [0xBE#8, 0xEF#8]).byte 1 = 0xEF#8 := by decide

theorem witness_CrcAccFollowsItsRule :
    (12#4).toNat ≤ 12 ∧ 13 ≤ (13#4).toNat ∧
      after (exec (.crcAcc 1) State.reset) = some { State.reset with crc := 0xAC#8 } ∧
      (withBytes [0x01#8, 0x02#8]).crc = State.reset.crc ∧
      ({ withBytes [0x01#8, 0x02#8] with crc := 0x00#8 } : State).crc = 0x00#8 ∧
      ({ withBytes [0x01#8, 0x02#8] with crc := 0x00#8 } : State).byte 0 = 0x01#8 ∧
      ({ withBytes [0x01#8, 0x02#8] with crc := 0x00#8 } : State).byte 1 = 0x02#8 := by decide

theorem witness_DwEncodeFollowsItsRule :
    4 ≤ (4#4).toNat ∧ scenario.byte 0 = 0x01#8 ∧ scenario.byte 1 = 0x02#8 := by decide

theorem witness_ChecksumIsAffine : [0x01#8, 0x02#8].length = [0xFF#8, 0x80#8].length := rfl

theorem witness_SingleBitFlipsAreRejectedByEveryCheck :
    scenario.valid 3 = true ∧ (11 : BufIndex).val / 3 = (3 : WordIndex).val ∧ (3 : WordIndex).val < (4 : Fin 5).val ∧
    scenario.valid 1 = true ∧ (3 : BufIndex).val / 3 = (1 : WordIndex).val ∧ (1 : WordIndex).val < 2 := by
  decide

theorem witness_DwCheckFollowsItsRule :
    crc8 [scenario.byte (hiIndex 3), scenario.byte (loIndex 3)] = scenario.byte (checkIndex 3) ∧
    crc8 [corrupted.byte (hiIndex 3), corrupted.byte (loIndex 3)] ≠ corrupted.byte (checkIndex 3) ∧
    4 ≤ (4#4).toNat ∧ (∀ j, State.reset.byte j = 0x00#8) ∧
    scenario.byte 0 = 0x01#8 ∧ scenario.byte 1 = 0x02#8 ∧ scenario.byte 2 = 0x17#8 := by decide

theorem witness_FrameCheckFollowsItsRule :
    (1 ≤ (4#4).toNat ∧ (4#4).toNat ≤ 4 ∧ ∀ k : WordIndex, k.val < (4#4).toNat → scenario.valid k = true) ∧
    (1 ≤ (1#4).toNat ∧ (1#4).toNat ≤ 4 ∧ ∃ k : WordIndex, k.val < (1#4).toNat ∧ State.reset.valid k = false) ∧
    (0#4).toNat = 0 ∧ 5 ≤ (5#4).toNat ∧
    identified.byte 0 = 0x09#8 ∧ identified.byte 1 = 0x01#8 ∧ identified.byte 2 = 0x73#8 ∧ identified.byte 3 = 0x01#8 ∧
      identified.byte 4 = 0x8A#8 ∧ identified.byte 5 = 0xD4#8 := by decide

theorem witness_FramesAreAcceptedAsAUnit :
    (∃ a : Nibble, Instr.frameCheck 1 = .frameCheck a ∧ 1 = a.toNat ∧ 1 ≤ 1 ∧ 1 ≤ 4) ∧
    (Instr.measExtract = .measExtract ∧ 4 = 4) ∧ (Instr.pidExtract = .pidExtract ∧ 2 = 2) :=
  ⟨⟨1, rfl, rfl, by decide, by decide⟩, ⟨rfl, rfl⟩, ⟨rfl, rfl⟩⟩

theorem witness_DwCheckZeroAgreesWithFrameCheckOne : State.reset.valid 0 = false := by decide

theorem witness_MeasExtractFollowsItsRule :
    (∀ k : WordIndex, scenario.valid k = true) ∧ (∃ k : WordIndex, corrupted.valid k = false) ∧
    ((0x00000016#32).toNat % 16 = 6 ∧ 0x00000016#32 ≠ 0x00000006#32) ∧
    scenario.bytes 12 =
      [0x01#8, 0x02#8, 0x17#8, 0x66#8, 0x66#8, 0x93#8, 0x80#8, 0x00#8, 0xA2#8, 0x12#8, 0x34#8, 0x37#8] := by decide

theorem witness_PidExtractFollowsItsRule :
    (identified.valid 0 = true ∧ identified.valid 1 = true) ∧ State.reset.valid 0 = false ∧
    ((0x00000017#32).toNat % 16 = 7 ∧ 0x00000017#32 ≠ 0x00000007#32) ∧
    identified.bytes 6 = [0x09#8, 0x01#8, 0x73#8, 0x01#8, 0x8A#8, 0xD4#8] := by decide

theorem witness_ProductIdByteSignificance : identified.valid 0 = true ∧ identified.valid 1 = true := by decide

theorem witness_GenuineZeroIdDiffersFromTheSentinel :
    State.reset.valid 1 = false ∧
    (withBytes [0x00#8, 0x00#8, 0x81#8, 0x00#8, 0x00#8, 0x81#8]).valid 0 = true ∧
    (withBytes [0x00#8, 0x00#8, 0x81#8, 0x00#8, 0x00#8, 0x81#8]).valid 1 = true ∧
    (withBytes [0x00#8, 0x00#8, 0x81#8, 0x00#8, 0x00#8, 0x81#8]).payload 0 = 0x0000#16 ∧
    (withBytes [0x00#8, 0x00#8, 0x81#8, 0x00#8, 0x00#8, 0x81#8]).payload 1 = 0x0000#16 := by decide

theorem witness_NopFollowsItsRule :
    ((Instr.frameCheck 4).wellFormed = true ∧ Instr.frameCheck 4 ≠ .nop) ∧
    ((0x00000010#32).toNat % 16 = 0 ∧ 0x00000010#32 ≠ 0x00000000#32) ∧
    ({ State.reset with status := 0x00000012#32 } : State).status = 0x00000012#32 := by decide

theorem witness_OperationsWriteOnlyTheirRegisters :
    (∀ n, Instr.frameCheck 4 ≠ .crcCalc n ∧ Instr.frameCheck 4 ≠ .crcAcc n) ∧
    (∀ k : WordIndex, Instr.dwEncode 3 = .dwEncode (BitVec.ofNat 4 k.val) → (10 : BufIndex) ≠ checkIndex k) ∧
    checksWord (.frameCheck 3) 3 = false ∧ Instr.pidExtract ≠ .measExtract ∧ Instr.measExtract ≠ .pidExtract ∧
    Instr.nop = .nop := by decide

theorem witness_OperationsReadOnlyTheirBytes :
    ∀ j, readsByte (.frameCheck 3) j = true → corrupted.buf.read j = scenario.byte j := by decide

theorem witness_ChecksNeitherReadNorWriteCrc :
    ∀ n, Instr.measExtract ≠ .crcCalc n ∧ Instr.measExtract ≠ .crcAcc n := by decide

theorem witness_StatusIsNotSticky : decode 0x00000006#32 ≠ .ok .nop ∧ decode 0x00000010#32 ≠ .ok .nop := by decide

theorem witness_StatusFieldsFollowTheirRules : decode 0x00000007#32 ≠ .ok .nop ∧ decode 0x80000001#32 ≠ .ok .nop := by decide

theorem witness_OperationsButCrcAccAreIdempotent : ∀ n, Instr.dwEncode 3 ≠ .crcAcc n := by decide

theorem witness_RejectedChecksLeaveStaleResults :
    isChecking .measExtract = true ∧ ∃ k, checksWord .measExtract k = true ∧ corrupted.valid k = false := by decide

theorem witness_ResetBufferFailsEveryCheck :
    isChecking (.frameCheck 4) = true ∧ (Instr.frameCheck 4).wellFormed = true ∧
      ∀ j, State.reset.byte j = State.reset.byte j := by decide

theorem witness_MeasurementEndToEnd : ∀ k : WordIndex, scenario.valid k = true := by decide

theorem witness_LoadedChecksIgnoreTheOldBuffer :
    loadsBeforeChecks (fun _ => false)
      [writeB 0 0x01#8, writeB 1 0x02#8, writeB 2 0x17#8, .write 0x00#5 0x00000004#32, .write 0x00#5 0x00000015#32] = true ∧
    loadsBeforeChecks (fun _ => false) [writeB 0 0x01#8, writeB 1 0x02#8, .write 0x00#5 0x00000004#32] = false := by
  decide

end Sys2Proof.Tests
end

section
/-! PROOFS. Family 10_state.md. First the layer of facts: the fields of STATUS, the operations the decoder gives, and the one
fail mask every checking operation ends on; then the statements. -/

namespace Sys2Proof.Machine

/-! ### The fields of a STATUS value (R25) -/

/-- Each field of a STATUS value built from its fields is the one it was built from. -/
theorem fields_statusWord (ok crcErr idMatch illegal : Bool) (wfail : Nibble) :
    statusOk (statusWord ok crcErr idMatch illegal wfail) = ok ∧
      statusCrcErr (statusWord ok crcErr idMatch illegal wfail) = crcErr ∧
      statusIdMatch (statusWord ok crcErr idMatch illegal wfail) = idMatch ∧
      statusIllegal (statusWord ok crcErr idMatch illegal wfail) = illegal ∧
      statusWfail (statusWord ok crcErr idMatch illegal wfail) = wfail := by
  revert ok crcErr idMatch illegal wfail; decide

/-! ### What the host reads, and what reset holds -/

@[simp] theorem readValue_ctrl (s : State) : readValue s 0x00#5 = 0x00000000#32 := rfl
@[simp] theorem readValue_status (s : State) : readValue s 0x01#5 = zext 32 (field s.status 0 8) := rfl
@[simp] theorem readValue_expid (s : State) : readValue s 0x03#5 = Config.expectedId := rfl

/-- Every WORD register is 0x0000 after reset (R42). -/
@[simp] theorem State.reset_word (k : WordIndex) : State.reset.word[k] = 0x0000#16 := by
  revert k; decide

/-- Zero-extension leaves 0 in every field above the extended value. -/
theorem field_zext_eq_zero {w n lo len : Nat} (v : BitVec w) (h : w ≤ lo) : field (zext n v) lo len = 0 := by
  ext j hj
  simp [BitVec.getLsbD_of_ge v (lo + j) (by omega)]

/-! ### Issuing a CTRL value -/

theorem issue_of_decode_ok {v : Word} {i : Instr} (h : decode v = .ok i) (s : State) : issue v s = exec i s := by
  simp [issue, h]

theorem issue_of_decode_error {v : Word} {e : DecodeError} (h : decode v = .error e) (s : State) :
    issue v s = .next (s.setStatus statusIllegalOperation) := by
  simp [issue, h, raiseError, errorStatus]

/-- R70's case table gives no operation with an illegal operand. -/
theorem decodeFields_wellFormed {op arg : Nibble} {i : Instr} (h : decodeFields op arg = .ok i) :
    i.wellFormed = true := by
  unfold decodeFields at h
  split at h
  case h_9 => cases h
  case h_1 | h_7 | h_8 => split at h <;> cases h; rfl
  all_goals
    split at h <;> cases h
    simp only [Instr.wellFormed, Bool.and_eq_true, decide_eq_true_eq]
    omega

/-- The decoder gives no operation with an illegal operand (R68). -/
theorem decode_wellFormed {v : Word} {i : Instr} (h : decode v = .ok i) : i.wellFormed = true := by
  unfold decode at h
  split at h
  · exact decodeFields_wellFormed h
  · cases h

/-! ### The one fail mask of the checking operations -/

/-- The mask of the words an operation checks and finds invalid, bit k for word k (R30). -/
def State.checkMask (s : State) (i : Instr) : Nibble :=
  BitVec.ofFnLE fun k : WordIndex => checksWord i k && !s.valid k

theorem State.checkMask_bit (s : State) (i : Instr) (k : WordIndex) :
    (s.checkMask i).getLsbD k.val = (checksWord i k && !s.valid k) := by
  simp [State.checkMask]

/-- `checkMask_bit` in the spelling `simp` gives a bit below the width. -/
@[simp] theorem State.checkMask_getElem (s : State) (i : Instr) (k : WordIndex) :
    (s.checkMask i)[k.val] = (checksWord i k && !s.valid k) := by
  simp [State.checkMask]

/-- A nibble is the check mask of an operation when its four bits are. -/
theorem State.eq_checkMask {s : State} {i : Instr} {m : Nibble}
    (h : ∀ k : WordIndex, m.getLsbD k.val = (checksWord i k && !s.valid k)) : m = s.checkMask i :=
  BitVec.eq_of_getLsbD_eq fun j hj => (h ⟨j, hj⟩).trans (s.checkMask_bit i ⟨j, hj⟩).symm

/-- The mask is empty exactly when every checked word is valid. -/
theorem State.checkMask_eq_zero (s : State) (i : Instr) :
    s.checkMask i = 0x0#4 ↔ ∀ k, checksWord i k = true → s.valid k = true := by
  constructor
  · intro h k hk
    have hbit := s.checkMask_bit i k
    rw [h] at hbit
    simpa [hk] using hbit.symm
  · intro h
    refine (State.eq_checkMask fun k => ?_).symm
    by_cases hk : checksWord i k = true
    · simp [h k hk]
    · simp [hk]

/-- The mask DW_CHECK builds for its word (R91). -/
theorem State.singleMask_dwCheck (s : State) {arg : Nibble} {k : WordIndex} (h : arg.toNat = k.val) :
    (if s.valid k then 0x0#4 else 0x1#4 <<< k.val) = s.checkMask (.dwCheck arg) := by
  have hone : ∀ j k : WordIndex, (0x1#4 <<< k.val).getLsbD j.val = decide (j.val = k.val) := by decide
  refine State.eq_checkMask fun j => ?_
  by_cases hj : j = k
  · subst hj
    split <;> simp_all [checksWord]
  · have hne : j.val ≠ k.val := fun e => hj (Fin.ext e)
    split
    · simp [checksWord, h, hne]
    · rw [hone]
      simp [checksWord, h, hne]

theorem State.failMask_frameCheck (s : State) {n : Nibble} (h : n.toNat ≤ 4) :
    s.failMask n.toNat = s.checkMask (.frameCheck n) :=
  State.eq_checkMask fun k => by rw [State.failMask_bit]; simp [checksWord, h]

theorem State.failMask_measExtract (s : State) : s.failMask 4 = s.checkMask .measExtract :=
  State.eq_checkMask fun k => by rw [State.failMask_bit]; simp [checksWord]

theorem State.failMask_pidExtract (s : State) : s.failMask 2 = s.checkMask .pidExtract :=
  State.eq_checkMask fun k => by rw [State.failMask_bit]; simp [checksWord]

/-! ### Each operation with a legal operand -/

theorem byteCount_of_le {n : Nibble} (h : n.toNat ≤ 12) : byteCount n = some n.toNat :=
  (byteCount_eq_some _ _).2 ⟨rfl, h⟩

theorem wordIndex_of_lt {k : Nibble} (h : k.toNat < 4) : wordIndex k = some ⟨k.toNat, h⟩ :=
  (wordIndex_eq_some _ _).2 rfl

theorem wordCount_of_le {n : Nibble} (hlo : 1 ≤ n.toNat) (hhi : n.toNat ≤ 4) : wordCount n = some n.toNat :=
  (wordCount_eq_some _ _).2 ⟨rfl, hlo, hhi⟩

theorem exec_crcCalc_of_le {n : Nibble} (h : n.toNat ≤ 12) (s : State) :
    exec (.crcCalc n) s = .next ((s.setCrc (crc8 (s.bytes n.toNat))).setStatus statusDone) := by
  simp only [exec, execCrcCalc, byteCount_of_le h, withOperand]

theorem exec_crcAcc_of_le {n : Nibble} (h : n.toNat ≤ 12) (s : State) :
    exec (.crcAcc n) s = .next ((s.setCrc (crc8From s.crc (s.bytes n.toNat))).setStatus statusDone) := by
  simp only [exec, execCrcAcc, byteCount_of_le h, withOperand]

theorem exec_dwEncode_of_lt {k : Nibble} (h : k.toNat < 4) (s : State) :
    exec (.dwEncode k) s =
      .next ((s.setByte (checkIndex ⟨k.toNat, h⟩) (s.payloadCrc ⟨k.toNat, h⟩)).setStatus statusDone) := by
  simp only [exec, execDwEncode, wordIndex_of_lt h, withOperand]

theorem exec_dwCheck_of_lt {k : Nibble} (h : k.toNat < 4) (s : State) :
    exec (.dwCheck k) s = .next (concludeCheck (s.checkMask (.dwCheck k))
      ((s.writeWord ⟨k.toNat, h⟩).setStatus statusAccepted) s) := by
  simp only [exec, execDwCheck, wordIndex_of_lt h, withOperand]
  rw [← s.singleMask_dwCheck (k := ⟨k.toNat, h⟩) rfl]

theorem exec_frameCheck_of_le {n : Nibble} (hlo : 1 ≤ n.toNat) (hhi : n.toNat ≤ 4) (s : State) :
    exec (.frameCheck n) s = .next (concludeCheck (s.checkMask (.frameCheck n))
      ((s.writeWords n.toNat).setStatus statusAccepted) s) := by
  simp only [exec, execFrameCheck, wordCount_of_le hlo hhi, withOperand, s.failMask_frameCheck hhi]

theorem exec_measExtract (s : State) :
    exec .measExtract s = .next (concludeCheck (s.checkMask .measExtract) (acceptMeasurement s) s) := by
  simp only [exec, execMeasExtract, s.failMask_measExtract]

theorem exec_pidExtract (s : State) :
    exec .pidExtract s = .next (concludeCheck (s.checkMask .pidExtract)
      (acceptProductId Config.expectedId s) (s.setPid 0x00000000#32)) := by
  simp only [exec, execPidExtract, extractProductId, s.failMask_pidExtract]

/-! ### The STATUS an operation leaves -/

/-- Whether an operation that accepts its words sets ID_MATCH: only PID_EXTRACT can (R28). -/
def State.matchesId (s : State) (i : Instr) : Bool :=
  decide (i = .pidExtract) && s.assembledId == Config.expectedId

theorem concludeCheck_status (fail : Nibble) (accepted rejected : State) :
    (concludeCheck fail accepted rejected).status =
      if fail = 0x0#4 then accepted.status else statusChecksumError fail := by
  unfold concludeCheck
  split <;> rfl

/-- A legal checking operation goes on, and its STATUS is fixed by the words it checks (R26 to R30). -/
theorem exec_checking_status {i : Instr} (hc : isChecking i = true) (hw : i.wellFormed = true) (s : State) :
    ∃ t, exec i s = .next t ∧ t.status =
      if s.checkMask i = 0x0#4 then statusIdentified (s.matchesId i) else statusChecksumError (s.checkMask i) := by
  cases i with
  | nop | crcCalc | crcAcc | dwEncode => cases hc
  | dwCheck k =>
    exact ⟨_, exec_dwCheck_of_lt (of_decide_eq_true hw) s, concludeCheck_status _ _ _⟩
  | frameCheck n =>
    obtain ⟨hlo, hhi⟩ : 1 ≤ n.toNat ∧ n.toNat ≤ 4 := by simpa [Instr.wellFormed] using hw
    exact ⟨_, exec_frameCheck_of_le hlo hhi s, concludeCheck_status _ _ _⟩
  | measExtract => exact ⟨_, exec_measExtract s, concludeCheck_status _ _ _⟩
  | pidExtract => exact ⟨_, exec_pidExtract s, concludeCheck_status _ _ _⟩

/-- A legal operation that is neither NOP nor a check goes on and clears STATUS (R26 to R30). -/
theorem exec_nonchecking_status {i : Instr} (hc : isChecking i = false) (hn : i ≠ .nop) (hw : i.wellFormed = true)
    (s : State) : ∃ t, exec i s = .next t ∧ t.status = statusDone := by
  cases i with
  | nop => exact absurd rfl hn
  | dwCheck | frameCheck | measExtract | pidExtract => cases hc
  | crcCalc n => exact ⟨_, exec_crcCalc_of_le (of_decide_eq_true hw) s, rfl⟩
  | crcAcc n => exact ⟨_, exec_crcAcc_of_le (of_decide_eq_true hw) s, rfl⟩
  | dwEncode k => exact ⟨_, exec_dwEncode_of_lt (of_decide_eq_true hw) s, rfl⟩

theorem checksWord_eq_false {i : Instr} (hc : isChecking i = false) (k : WordIndex) : checksWord i k = false := by
  cases i with
  | nop | crcCalc | crcAcc | dwEncode => rfl
  | dwCheck | frameCheck | measExtract | pidExtract => cases hc

/-- PID_EXTRACT checks words 0 and 1 (R104). -/
theorem forall_checksWord_pidExtract (p : WordIndex → Prop) :
    (∀ k, checksWord .pidExtract k = true → p k) ↔ p 0 ∧ p 1 := by
  simp [checksWord, Fin.forall_fin_succ]

/-- A PID_EXTRACT that accepts sets ID_MATCH exactly when the ID of words 0 and 1 is what EXPID reads (R28, R107). -/
theorem State.matchesId_iff {s : State} {i : Instr} (hvalid : ∀ k, checksWord i k = true → s.valid k = true) :
    s.matchesId i = true ↔ i = .pidExtract ∧ s.valid 0 = true ∧ s.valid 1 = true ∧
      s.byte 0 ++ (s.byte 1 ++ (s.byte 3 ++ s.byte 4)) = readValue s 0x03#5 := by
  by_cases hi : i = .pidExtract
  · subst hi
    obtain ⟨h0, h1⟩ := (forall_checksWord_pidExtract (s.valid · = true)).1 hvalid
    simp [State.matchesId, State.assembledId, h0, h1]
  · simp [State.matchesId, hi]

/-! ### The statements -/

/-- Settles O11, register by register of R42's table. -/
theorem resetValues : Obligations.ResetValues :=
  ⟨rfl, rfl, State.reset_byte, State.reset_word, rfl, rfl, rfl, rfl, rfl, readValue_expid _, readValue_ctrl _⟩

/-- Settles O14: the read gives STATUS bits 7:0 zero-extended. -/
theorem statusReservedBitsReadZero : Obligations.StatusReservedBitsReadZero := by
  intro s
  rw [readValue_status]
  exact field_zext_eq_zero _ (Nat.le_refl 8)

/-- Settles O53, by what the CTRL value is: illegal, a check that accepts, a check that rejects, or another operation. -/
theorem statusFieldsFollowTheirRules : Obligations.StatusFieldsFollowTheirRules := by
  intro v s hnop
  cases hd : decode v with
  | error e =>
    refine ⟨_, issue_of_decode_error hd s, ?_⟩
    simp [statusIllegalOperation, -statusIllegalOperation_eq, fields_statusWord]
  | ok i =>
    have hw := decode_wellFormed hd
    have hi : i ≠ .nop := fun h => hnop (h ▸ hd)
    rw [issue_of_decode_ok hd]
    cases hc : isChecking i with
    | false =>
      obtain ⟨t, hexec, hstatus⟩ := exec_nonchecking_status hc hi hw s
      have hpid : i ≠ .pidExtract := by rintro rfl; cases hc
      refine ⟨t, hexec, ?_⟩
      simp [hstatus, statusDone, -statusDone_eq, fields_statusWord, hc, hpid, checksWord_eq_false hc]
    | true =>
      obtain ⟨t, hexec, hstatus⟩ := exec_checking_status hc hw s
      refine ⟨t, hexec, ?_⟩
      by_cases hvalid : ∀ k, checksWord i k = true → s.valid k = true
      · rw [if_pos ((s.checkMask_eq_zero i).2 hvalid)] at hstatus
        simpa [hstatus, statusIdentified, fields_statusWord, hc] using
          ⟨hvalid, State.matchesId_iff hvalid, hvalid⟩
      · rw [if_neg (mt (s.checkMask_eq_zero i).1 hvalid)] at hstatus
        have hinvalid : ∃ k, checksWord i k = true ∧ s.valid k = false := by simpa using hvalid
        have hnomatch : i = .pidExtract → s.valid 0 = true → ¬ s.valid 1 = true := by
          rintro rfl h0 h1
          exact hvalid ((forall_checksWord_pidExtract (s.valid · = true)).2 ⟨h0, h1⟩)
        simpa [hstatus, statusChecksumError, fields_statusWord, hc] using
          ⟨hinvalid, fun hi h0 h1 => absurd h1 (hnomatch hi h0)⟩

end Sys2Proof.Machine
end

section
/-! PROOFS. Family 20_memory.md. First the layer of facts: a host access at a register's word address is an access to that
register; then the statement. -/

namespace Sys2Proof.Machine

/-! ### Host accesses by register (R22) -/

/-- Each register's word address names that register. -/
@[simp] theorem regAt_slotOf (r : Reg) : regAt (slotOf r) = some r := by
  cases r with
  | b i => revert i; decide
  | word k => revert k; decide
  | ctrl | status | crc | expid | co2 | traw | hraw | mstat | pid => rfl

theorem writeSlot_slotOf (r : Reg) (v : Word) (s : State) : writeSlot (slotOf r) v s = writeReg r v s := by
  simp only [writeSlot, regAt_slotOf]

theorem readValue_slotOf (s : State) (r : Reg) : readValue s (slotOf r) = regValue Config.expectedId s r := by
  simp only [readValue, regAt_slotOf]

/-- A write of one buffer byte is undone by putting the old buffer back: no other field changed. -/
theorem State.setByte_restore_buf (s : State) (i : BufIndex) (v : Byte) : { s.setByte i v with buf := s.buf } = s := rfl

/-! ### The statement -/

/-- Settles O15: slot 0x04 + i is the address of B[i], so the write is one `setByte` and the read is that byte. -/
theorem hostAccessToTheBuffer : Obligations.HostAccessToTheBuffer := fun s i v =>
  ⟨⟨s.setByte i (field v 0 8), writeSlot_slotOf (.b i) v s, s.setByte_byte_same i _,
      fun j hj => s.setByte_byte_other i j _ hj.symm, s.setByte_restore_buf i _⟩,
    readValue_slotOf s (.b i)⟩

end Sys2Proof.Machine
end

section
/-! PROOFS. Family 30_encoding.md. First the layer of facts: a CTRL value as its three fields, the case table read from an
operation back to its fields, and what a value that decodes to nothing does; then the statements. -/

namespace Sys2Proof.Machine

/-! ### The fields of a CTRL value (R65) -/

/-- OP, ARG and RSV, each at its place, are the whole value. -/
theorem toNat_eq_fields (v : Word) :
    v.toNat = 256 * (rsvField v).toNat + 16 * (argField v).toNat + (opField v).toNat := by
  simp only [rsvField, argField, opField, BitVec.extractLsb'_toNat, Nat.shiftRight_eq_div_pow]
  omega

/-- The value of R66, `zext_32(concat(ARG, OP))`, as a number. -/
theorem zext_concat_toNat (arg op : Nibble) : (zext 32 (concat arg op)).toNat = 16 * arg.toNat + op.toNat := by
  obtain ⟨hop, harg, hrsv⟩ := Laws.WordFields.of_fields arg op
  rw [toNat_eq_fields, hop, harg, hrsv]
  simp

/-- A value whose RSV is 0 is its ARG above its OP. -/
theorem eq_zext_concat_of_rsvField {v : Word} (h : rsvField v = 0#24) :
    v = zext 32 (concat (argField v) (opField v)) := by
  apply BitVec.eq_of_toNat_eq
  rw [zext_concat_toNat, toNat_eq_fields v, h]
  simp

theorem encode_toNat (i : Instr) : (encode i).toNat = 16 * (operandOf i).toNat + (opcodeOf i).toNat :=
  zext_concat_toNat _ _

/-! ### The decoder (R70) -/

/-- The value built from an ARG and an OP is decoded by the case table on them. -/
theorem decode_zext_concat (arg op : Nibble) : decode (zext 32 (concat arg op)) = decodeFields op arg := by
  obtain ⟨hop, harg, hrsv⟩ := Laws.WordFields.of_fields arg op
  rw [decode, if_pos hrsv, hop, harg]

/-- The case table gives an operation for that operation's own OP and ARG alone. -/
theorem fields_of_decodeFields {op arg : Nibble} {i : Instr} (h : decodeFields op arg = .ok i) :
    op = opcodeOf i ∧ arg = operandOf i := by
  unfold decodeFields at h
  split at h
  case h_9 => cases h
  case h_1 | h_7 | h_8 =>
    split at h <;> cases h
    exact ⟨BitVec.eq_of_toNat_eq ‹_›, BitVec.eq_of_toNat_eq ‹_›⟩
  all_goals
    split at h <;> cases h
    exact ⟨BitVec.eq_of_toNat_eq ‹_›, rfl⟩

/-- Only its own encoding decodes to an operation: no bit of the value is dropped. -/
theorem encode_of_decode {v : Word} {i : Instr} (h : decode v = .ok i) : encode i = v := by
  unfold decode at h
  split at h
  case isTrue hrsv =>
    obtain ⟨hop, harg⟩ := fields_of_decodeFields h
    rw [eq_zext_concat_of_rsvField hrsv, hop, harg, encode]
  case isFalse => cases h

/-- A value that encodes no legal operation decodes to nothing. -/
theorem decode_toOption_eq_none {v : Word} (h : ∀ i : Instr, i.wellFormed = true → (encode i).toNat ≠ v.toNat) :
    (decode v).toOption = none := by
  cases hd : decode v with
  | error e => rfl
  | ok i => exact absurd (congrArg BitVec.toNat (encode_of_decode hd)) (h i (decode_wellFormed hd))

/-- A value that decodes to nothing writes STATUS and no other field (R123). -/
theorem issue_of_decode_none {v : Word} (h : (decode v).toOption = none) (s : State) :
    issue v s = .next { s with status := 0x00000008#32 } := by
  cases hd : decode v with
  | error e => exact issue_of_decode_error hd s
  | ok i => rw [hd] at h; cases h

/-- R70's count of the legal values. -/
theorem legalValues_length :
    ((List.range 256).filter fun v => (decode (BitVec.ofNat 32 v)).toOption.isSome).length = 41 :=
  rfl

/-! ### The statements -/

/-- Settles O3, clause by clause: the encoding of an operation is below 256, and below it the case table answers each
of R70's nine cases of OP as the statement does. -/
theorem decodeFollowsTheCaseTable : Obligations.DecodeFollowsTheCaseTable := by
  refine ⟨fun v hv => decode_toOption_eq_none fun i _ => ?large, fun op arg => ?table, legalValues_length,
    fun _ s h => issue_of_decode_none h s⟩
  case large =>
    rw [encode_toNat]
    omega
  case table =>
    have hop : (BitVec.ofNat 4 op.val).toNat = op.val := Nat.mod_eq_of_lt op.isLt
    have harg : (BitVec.ofNat 4 arg.val).toNat = arg.val := Nat.mod_eq_of_lt arg.isLt
    have hword : BitVec.ofNat 32 (16 * arg.val + op.val) =
        zext 32 (concat (BitVec.ofNat 4 arg.val) (BitVec.ofNat 4 op.val)) := by
      apply BitVec.eq_of_toNat_eq
      rw [zext_concat_toNat, hop, harg, BitVec.toNat_ofNat]
      omega
    rw [hword, decode_zext_concat, decodeFields, hop, harg]
    match op with
    | ⟨0, _⟩ | ⟨1, _⟩ | ⟨2, _⟩ | ⟨3, _⟩ | ⟨4, _⟩ | ⟨5, _⟩ | ⟨6, _⟩ | ⟨7, _⟩ =>
      exact apply_ite Except.toOption _ _ _
    | ⟨_ + 8, _⟩ => rfl

/-- Settles O4: a value that decoded would encode a legal operation, and no legal operation has such an OP, ARG or RSV. -/
theorem illegalValuesRaiseIllegalOperation : Obligations.IllegalValuesRaiseIllegalOperation := by
  intro v s hillegal
  refine issue_of_decode_none (decode_toOption_eq_none fun i hw hv => ?_) s
  rw [encode_toNat] at hv
  cases i with
  | nop | measExtract | pidExtract =>
    simp only [operandOf, opcodeOf, BitVec.toNat_ofNat] at hv
    omega
  | crcCalc | crcAcc | dwEncode | dwCheck | frameCheck =>
    simp only [operandOf, opcodeOf, BitVec.toNat_ofNat] at hv
    simp only [Instr.wellFormed, Bool.and_eq_true, decide_eq_true_eq] at hw
    omega

end Sys2Proof.Machine
end

section
/-! PROOFS. Family 40_checksum.md. First the layer of facts: the algebra of the checksum loop, the decoder on an operation's
own word, a second write to one buffer byte, each operation on a word index, and what a host program does to CRC; then the
statements. -/

namespace Sys2Proof.Machine

/-! ### The algebra of the checksum (R76, R80)

One turn of the loop is linear over GF(2) and injective, so feeding a byte is a bijection both of the register and of the
byte fed. -/

theorem crcShift_xor (a b : Byte) : crcShift (a ^^^ b) = crcShift a ^^^ crcShift b := by
  simp only [crcShift, BitVec.msb_xor, BitVec.shiftLeft_xor_distrib]
  cases a.msb <;> cases b.msb
  · rfl
  · exact BitVec.xor_assoc _ _ _
  · show a <<< 1 ^^^ b <<< 1 ^^^ Config.crcPoly = a <<< 1 ^^^ Config.crcPoly ^^^ b <<< 1
    ac_rfl
  · calc a <<< 1 ^^^ b <<< 1 = a <<< 1 ^^^ b <<< 1 ^^^ (Config.crcPoly ^^^ Config.crcPoly) := by simp
      _ = a <<< 1 ^^^ Config.crcPoly ^^^ (b <<< 1 ^^^ Config.crcPoly) := by ac_rfl

/-- The polynomial is odd, so a turn that XORs it in leaves bit 0 set; one that does not loses no bit. -/
theorem eq_zero_of_crcShift_eq_zero : ∀ c : Byte, crcShift c = 0#8 → c = 0#8 := by decide

theorem crcShift_injective : Function.Injective crcShift := fun a b h =>
  BitVec.xor_eq_zero_iff.1 (eq_zero_of_crcShift_eq_zero _ (by rw [crcShift_xor, h, BitVec.xor_self]))

theorem crcShifts_injective (n : Nat) : Function.Injective (crcShifts n) := by
  induction n with
  | zero => exact fun _ _ h => h
  | succ n ih => exact fun _ _ h => crcShift_injective (ih h)

/-- What a byte leaves in the register tells its XOR with what was there. -/
theorem crcByte_eq_iff {c c' b b' : Byte} : crcByte c b = crcByte c' b' ↔ c ^^^ b = c' ^^^ b' :=
  (crcShifts_injective 8).eq_iff

/-- Feeding the register its own value clears it, and no other byte does. -/
theorem crcByte_eq_zero_iff {c b : Byte} : crcByte c b = 0 ↔ c = b := by
  have hclear : crcByte 0 0 = 0 := rfl
  rw [← hclear, crcByte_eq_iff, BitVec.xor_self, BitVec.xor_eq_zero_iff]

/-- The eight turns of one byte and the polynomial written out, for evaluating a checksum of given bytes. -/
theorem crcByte_eq_turns (c b : Byte) : crcByte c b =
    crcShift (crcShift (crcShift (crcShift (crcShift (crcShift (crcShift (crcShift (c ^^^ b)))))))) := rfl

theorem crcShift_eq_ite (c : Byte) : crcShift c = if 128 ≤ c.toNat then (c <<< 1) ^^^ 0x31#8 else c <<< 1 := by
  simp [crcShift, BitVec.msb_eq_decide, Config.crcPoly]

/-- The chaining law: the register is the loop's only state (R82). -/
theorem crc8From_append (c : Byte) (a b : List Byte) : crc8From c (a ++ b) = crc8From (crc8From c a) b := by
  induction a generalizing c with
  | nil => rfl
  | cons x xs ih => exact ih _

theorem crc8_append (a b : List Byte) : crc8 (a ++ b) = crc8From (crc8 a) b := crc8From_append _ a b

/-- The bytes fed after two different register values keep them apart. -/
theorem crc8From_eq_iff {c c' : Byte} (bs : List Byte) : crc8From c bs = crc8From c' bs ↔ c = c' := by
  induction bs generalizing c c' with
  | nil => rfl
  | cons b bs ih =>
    calc crc8From (crcByte c b) bs = crc8From (crcByte c' b) bs
        ↔ crcByte c b = crcByte c' b := ih
      _ ↔ c = c' := by rw [crcByte_eq_iff, BitVec.xor_left_inj]

/-- Replacing one byte of a sequence by another one changes its checksum. -/
theorem crc8_replace_eq_iff (xs ys : List Byte) {x y : Byte} :
    crc8 (xs ++ x :: ys) = crc8 (xs ++ y :: ys) ↔ x = y := by
  rw [crc8_append, crc8_append, crc8From, crc8From, crc8From_eq_iff, crcByte_eq_iff, BitVec.xor_right_inj]

/-- The residue law: a checksum appended to its bytes, and nothing else, gives residue 0 (R83). -/
theorem crc8_append_eq_zero_iff {bs : List Byte} {c : Byte} : crc8 (bs ++ [c]) = 0 ↔ crc8 bs = c := by
  rw [crc8_append]
  exact crcByte_eq_zero_iff

/-- R83 in the validity of a word: its payload's checksum is its check byte. -/
theorem residue_eq_zero_iff {hi lo c : Byte} : crc8 [hi, lo, c] = 0 ↔ crc8 [hi, lo] = c :=
  crc8_append_eq_zero_iff (bs := [hi, lo])

/-! ### The three bytes of a DataWord as one 24-bit value -/

theorem dataWord_bytes (hi lo c : Byte) :
    (hi ++ lo ++ c).extractLsb' 16 8 = hi ∧ (hi ++ lo ++ c).extractLsb' 8 8 = lo ∧
      (hi ++ lo ++ c).extractLsb' 0 8 = c :=
  ⟨(BitVec.extractLsb'_append_eq_of_le (by decide)).trans BitVec.extractLsb'_append_eq_left,
    (BitVec.extractLsb'_append_eq_of_le (by decide)).trans BitVec.extractLsb'_append_eq_right,
    BitVec.extractLsb'_append_eq_right⟩

/-- The errors in the three bytes of a word strike one of them alone. -/
def OnlyOneNonzero (ehi elo ec : Byte) : Prop :=
  ehi ≠ 0 ∧ elo = 0 ∧ ec = 0 ∨ ehi = 0 ∧ elo ≠ 0 ∧ ec = 0 ∨ ehi = 0 ∧ elo = 0 ∧ ec ≠ 0

/-- A single bit of the 24 lies in exactly one of the three bytes. -/
theorem singleBit_in_one_byte : ∀ j : Fin 24,
    OnlyOneNonzero ((1#24 <<< j.val).extractLsb' 16 8) ((1#24 <<< j.val).extractLsb' 8 8)
      ((1#24 <<< j.val).extractLsb' 0 8) := by
  unfold OnlyOneNonzero
  decide

/-- A valid word with an error in one of its bytes is invalid: the residue changes with any one byte. -/
theorem crc8_ne_of_one_byte_changed {hi lo c ehi elo ec : Byte} (hvalid : crc8 [hi, lo] = c)
    (herr : OnlyOneNonzero ehi elo ec) : crc8 [hi ^^^ ehi, lo ^^^ elo] ≠ c ^^^ ec := by
  intro hflipped
  have hres : crc8 [hi ^^^ ehi, lo ^^^ elo, c ^^^ ec] = crc8 [hi, lo, c] :=
    (residue_eq_zero_iff.2 hflipped).trans (residue_eq_zero_iff.2 hvalid).symm
  rcases herr with ⟨hne, rfl, rfl⟩ | ⟨rfl, hne, rfl⟩ | ⟨rfl, rfl, hne⟩
  · exact hne (xor_left_eq_self_iff.1 ((crc8_replace_eq_iff [] [lo, c]).1 (by simpa using hres)))
  · exact hne (xor_left_eq_self_iff.1 ((crc8_replace_eq_iff [hi] [c]).1 (by simpa using hres)))
  · exact hne (xor_left_eq_self_iff.1 ((crc8_replace_eq_iff [hi, lo] []).1 (by simpa using hres)))

/-! ### The word of an operation (R66, R68) -/

theorem decode_encode {i : Instr} (h : i.wellFormed = true) : decode (encode i) = .ok i := by
  rw [encode, decode_zext_concat]
  cases i with
  | nop | measExtract | pidExtract => rfl
  | crcCalc | crcAcc => exact if_pos (of_decide_eq_true h)
  | dwEncode | dwCheck => exact if_pos (Nat.le_of_lt_succ (of_decide_eq_true h))
  | frameCheck => exact if_pos (by simpa [Instr.wellFormed, operandOf] using h)

theorem issue_encode {i : Instr} (h : i.wellFormed = true) (s : State) : issue (encode i) s = exec i s :=
  issue_of_decode_ok (decode_encode h) s

/-- The word of an operation with an illegal operand writes STATUS and no other field (R68). -/
theorem issue_encode_of_illFormed {i : Instr} (h : i.wellFormed = false) (s : State) :
    issue (encode i) s = .next { s with status := 0x00000008#32 } := by
  refine illegalValuesRaiseIllegalOperation _ s ?_
  rw [encode_toNat]
  cases i with
  | nop | measExtract | pidExtract => cases h
  | crcCalc | crcAcc | dwEncode | dwCheck | frameCheck =>
    simp only [Instr.wellFormed, Bool.and_eq_false_iff, decide_eq_false_iff_not] at h
    simp only [operandOf, opcodeOf, BitVec.toNat_ofNat]
    omega

/-! ### The operations that feed the checksum, by the value they leave -/

theorem exec_crcCalc_eq {n : Nibble} (h : n.toNat ≤ 12) {s : State} {c : Byte} (hc : crc8 (s.bytes n.toNat) = c) :
    exec (.crcCalc n) s = .next { s with crc := c, status := 0x00000000#32 } :=
  hc ▸ exec_crcCalc_of_le h s

theorem exec_crcAcc_eq {n : Nibble} (h : n.toNat ≤ 12) {s : State} {c : Byte}
    (hc : crc8From s.crc (s.bytes n.toNat) = c) :
    exec (.crcAcc n) s = .next { s with crc := c, status := 0x00000000#32 } :=
  hc ▸ exec_crcAcc_of_le h s

/-- A CRC_ACC that changes CRC changes it once more when it is issued again, since the same bytes keep the two values
apart. -/
theorem exec_crcAcc_again_ne {n : Nibble} (h : n.toNat ≤ 12) {s : State}
    (hmoves : crc8From s.crc (s.bytes n.toNat) ≠ s.crc) :
    exec (.crcAcc n) ((s.setCrc (crc8From s.crc (s.bytes n.toNat))).setStatus statusDone) ≠
      .next ((s.setCrc (crc8From s.crc (s.bytes n.toNat))).setStatus statusDone) := by
  rw [exec_crcAcc_of_le h]
  intro hsame
  injection hsame with hstate
  exact hmoves ((crc8From_eq_iff (s.bytes n.toNat)).1 (congrArg State.crc hstate))

/-! ### A word index as an operand (R71) -/

theorem toNat_ofNat_wordIndex (k : WordIndex) : (BitVec.ofNat 4 k.val).toNat = k.val :=
  Nat.mod_eq_of_lt (by omega)

theorem wordIndex_ofNat (k : WordIndex) : wordIndex (BitVec.ofNat 4 k.val) = some k :=
  (wordIndex_eq_some _ k).2 (toNat_ofNat_wordIndex k)

/-- The state DW_ENCODE k leaves (R84). -/
def State.encodeWord (s : State) (k : WordIndex) : State :=
  (s.setByte (checkIndex k) (s.payloadCrc k)).setStatus statusDone

theorem exec_dwEncode (k : WordIndex) (s : State) :
    exec (.dwEncode (BitVec.ofNat 4 k.val)) s = .next (s.encodeWord k) := by
  simp only [exec, execDwEncode, wordIndex_ofNat, withOperand, State.encodeWord]

/-- DW_CHECK of a valid word accepts it (R91). -/
theorem exec_dwCheck_of_valid {k : WordIndex} {s : State} (h : s.valid k = true) :
    exec (.dwCheck (BitVec.ofNat 4 k.val)) s = .next ((s.writeWord k).setStatus statusAccepted) := by
  simp only [exec, execDwCheck, wordIndex_ofNat, withOperand, h, if_true, concludeCheck]

/-! ### What DW_ENCODE leaves in the buffer (R84) -/

theorem Memory.filter_insertCell (a : Nat) (v : Byte) (m : Memory) :
    (Memory.insertCell a v m).filter (fun c => c.1 != a) = m.filter (fun c => c.1 != a) := by
  induction m with
  | nil => simp [Memory.insertCell]
  | cons c rest ih =>
    simp only [Memory.insertCell]
    split
    · simp
    · simp only [List.filter_cons, ih]

/-- Of two writes to one index the later one stands, in any memory. -/
@[simp] theorem Memory.write_write_same (m : Memory) (i : BufIndex) (v w : Byte) :
    (m.write i v).write i w = m.write i w := by
  have hfilter : (m.write i v).filter (fun c => c.1 != i.val) = m.filter (fun c => c.1 != i.val) := by
    simp only [Memory.write]
    split
    · simp
    · simp [Memory.filter_insertCell]
  rw [Memory.write, hfilter]
  rfl

theorem checkIndex_ne_hiIndex (k : WordIndex) : checkIndex k ≠ hiIndex k := by
  simp [checkIndex, hiIndex]

theorem checkIndex_ne_loIndex (k : WordIndex) : checkIndex k ≠ loIndex k := by
  simp [checkIndex, loIndex]

/-- A write of a word's check byte leaves the checksum of its payload. -/
@[simp] theorem State.setByte_checkIndex_payloadCrc (s : State) (k : WordIndex) (v : Byte) :
    (s.setByte (checkIndex k) v).payloadCrc k = s.payloadCrc k := by
  simp only [State.payloadCrc, s.setByte_byte_other _ _ v (checkIndex_ne_hiIndex k),
    s.setByte_byte_other _ _ v (checkIndex_ne_loIndex k)]

theorem State.encodeWord_check (s : State) (k : WordIndex) : (s.encodeWord k).byte (checkIndex k) = s.payloadCrc k :=
  s.setByte_byte_same _ _

theorem State.encodeWord_byte_other (s : State) (k : WordIndex) {j : BufIndex} (h : j ≠ checkIndex k) :
    (s.encodeWord k).byte j = s.byte j :=
  s.setByte_byte_other _ _ _ h.symm

theorem State.encodeWord_payloadCrc (s : State) (k : WordIndex) : (s.encodeWord k).payloadCrc k = s.payloadCrc k :=
  s.setByte_checkIndex_payloadCrc k _

/-- R85: word k is then valid. -/
theorem State.encodeWord_valid (s : State) (k : WordIndex) : (s.encodeWord k).valid k = true :=
  (State.valid_iff _ k).2 ((s.encodeWord_payloadCrc k).trans (s.encodeWord_check k).symm)

theorem State.encodeWord_idem (s : State) (k : WordIndex) : (s.encodeWord k).encodeWord k = s.encodeWord k := by
  rw [State.encodeWord, s.encodeWord_payloadCrc]
  simp only [State.encodeWord, State.setStatus, State.setByte, Memory.write_write_same]

/-! ### The bytes of the buffer in order -/

theorem State.bytes_succ (s : State) {n : Nat} (h : n < 12) : s.bytes (n + 1) = s.bytes n ++ [s.byte ⟨n, h⟩] := by
  simp [State.bytes, List.take_add_one, h]

/-- A write above the first n bytes leaves them. -/
theorem State.setByte_bytes (s : State) (i : BufIndex) (v : Byte) : (s.setByte i v).bytes i.val = s.bytes i.val :=
  State.bytes_congr _ _ _ fun j hj => s.setByte_byte_other i j v (by rintro rfl; omega)

/-! ### Every input goes on (R124, R127) -/

theorem withOperand_goesOn {α : Type} (operand : Option α) (s : State) (op : α → State) :
    ∃ t, withOperand operand s op = .next t := by
  cases operand with
  | none => exact ⟨_, rfl⟩
  | some a => exact ⟨_, rfl⟩

theorem exec_goesOn (i : Instr) (s : State) : ∃ t, exec i s = .next t := by
  cases i with
  | nop | measExtract | pidExtract => exact ⟨_, rfl⟩
  | crcCalc | crcAcc | dwEncode | dwCheck | frameCheck => exact withOperand_goesOn _ s _

theorem issue_goesOn (v : Word) (s : State) : ∃ t, issue v s = .next t := by
  cases hd : decode v with
  | error e => exact ⟨_, issue_of_decode_error hd s⟩
  | ok i => exact issue_of_decode_ok hd s ▸ exec_goesOn i s

theorem writeReg_goesOn (r : Reg) (v : Word) (s : State) : ∃ t, writeReg r v s = .next t := by
  cases r with
  | ctrl => exact issue_goesOn v s
  | b | status | crc | expid | word | co2 | traw | hraw | mstat | pid => exact ⟨_, rfl⟩

theorem serve_goesOn (x : HostInput) (s : State) : ∃ t, serve x s = .next t := by
  cases x with
  | read | reset => exact ⟨_, rfl⟩
  | write a v =>
    cases hr : regAt a with
    | none => exact ⟨s, by simp [serve, writeSlot, hr]⟩
    | some r => simpa [serve, writeSlot, hr] using writeReg_goesOn r v s

/-- Two lists of inputs one after the other. -/
theorem serveAll_append (xs ys : List HostInput) (s : State) :
    serveAll (xs ++ ys) s = serveAll ys (serveAll xs s) := by
  induction xs generalizing s with
  | nil => rfl
  | cons x xs ih =>
    obtain ⟨t, ht⟩ := serve_goesOn x s
    rw [List.cons_append, serveAll_cons _ _ _ _ ht, serveAll_cons _ _ _ _ ht, ih]

/-! ### The lines that feed a chunk (R75, R79) -/

theorem serve_writeB (i : BufIndex) (v : Byte) (s : State) : serve (writeB i v) s = .next (s.setByte i v) := by
  have hlow : field (zext 32 v) 0 8 = v := by
    ext j hj
    have hj32 : j < 32 := by omega
    simp [hj, hj32]
  rw [writeB, serve, writeSlot_slotOf, writeReg, hlow]

/-- LOADB of bytes that fit puts them behind the first i bytes and leaves CRC. -/
theorem loadBytes_spec {i : Nat} {bs : List Byte} (h : i + bs.length ≤ 12) :
    ∃ xs, loadBytes i bs = some xs ∧ ∀ s : State,
      (serveAll xs s).bytes (i + bs.length) = s.bytes i ++ bs ∧ (serveAll xs s).crc = s.crc := by
  induction bs generalizing i with
  | nil => exact ⟨[], rfl, fun s => by simp⟩
  | cons b bs ih =>
    rw [List.length_cons, Nat.add_comm bs.length, ← Nat.add_assoc] at h ⊢
    have hi : i < 12 := by omega
    obtain ⟨xs, hxs, hspec⟩ := ih h
    refine ⟨writeB ⟨i, hi⟩ b :: xs, by simp [loadBytes, hi, hxs], fun s => ?_⟩
    obtain ⟨hbytes, hcrc⟩ := hspec (s.setByte ⟨i, hi⟩ b)
    have hkept : (s.setByte ⟨i, hi⟩ b).bytes i = s.bytes i := s.setByte_bytes ⟨i, hi⟩ b
    rw [serveAll_cons _ _ _ _ (serve_writeB ⟨i, hi⟩ b s), hbytes, State.bytes_succ _ hi, hkept,
      State.setByte_byte_same, hcrc]
    simp

/-- `OP` of a legal operation is one write, which performs it. -/
theorem issueOp_spec {i : Instr} (h : i.wellFormed = true) :
    ∃ x, issueOp i = some [x] ∧ ∀ s, serve x s = exec i s := by
  refine ⟨.write (slotOf .ctrl) (encode i), by simp [issueOp, assemble, h], fun s => ?_⟩
  rw [serve, writeSlot_slotOf]
  exact issue_encode h s

/-- The lines are accepted, and from every state they take CRC to the value `f` gives of it. -/
def MapsCrc (p : List HostLine) (f : Byte → Byte) : Prop :=
  ∃ xs, expandProgram p = some xs ∧ ∀ s, (serveAll xs s).crc = f s.crc

theorem MapsCrc.append {p q : List HostLine} {f g : Byte → Byte} (hp : MapsCrc p f) (hq : MapsCrc q g) :
    MapsCrc (p ++ q) (fun c => g (f c)) := by
  obtain ⟨xs, hxs, hf⟩ := hp
  obtain ⟨ys, hys, hg⟩ := hq
  exact ⟨xs ++ ys, expandProgram_append _ _ _ _ hxs hys, fun s => by rw [serveAll_append, hg, hf]⟩

/-- A chunk that fits is fed to an operation that computes CRC from CRC and the first bytes of B. -/
theorem mapsCrc_feedChunk {op : Nibble → Instr} {f : Byte → List Byte → Byte}
    (hwf : ∀ n : Nibble, n.toNat ≤ 12 → (op n).wellFormed = true)
    (hexec : ∀ n : Nibble, n.toNat ≤ 12 → ∀ s,
      exec (op n) s = .next ((s.setCrc (f s.crc (s.bytes n.toNat))).setStatus statusDone))
    {chunk : List Byte} (hlen : chunk.length ≤ 12) : MapsCrc (feedChunk op chunk) (fun c => f c chunk) := by
  have hnum : (BitVec.ofNat 4 chunk.length).toNat = chunk.length := Nat.mod_eq_of_lt (by omega)
  have hn : (BitVec.ofNat 4 chunk.length).toNat ≤ 12 := hnum.trans_le hlen
  obtain ⟨xs, hxs, hload⟩ := loadBytes_spec (i := 0) (bs := chunk) (by omega)
  obtain ⟨x, hx, hserve⟩ := issueOp_spec (hwf (BitVec.ofNat 4 chunk.length) hn)
  refine ⟨xs ++ [x], by simp [feedChunk, expandProgram, expandLine, hxs, hx], fun s => ?_⟩
  obtain ⟨hbytes, hcrc⟩ := hload s
  have hchunk : (serveAll xs s).bytes chunk.length = chunk := by simpa [State.bytes] using hbytes
  rw [serveAll_append, serveAll_cons _ _ _ _ ((hserve _).trans (hexec _ hn _)), hnum, hchunk, hcrc]
  rfl

theorem mapsCrc_feedChunk_crcCalc {chunk : List Byte} (h : chunk.length ≤ 12) :
    MapsCrc (feedChunk .crcCalc chunk) (fun _ => crc8 chunk) :=
  mapsCrc_feedChunk (op := .crcCalc) (f := fun _ bs => crc8 bs) (fun _ hn => decide_eq_true hn)
    (fun _ hn => exec_crcCalc_of_le hn) h

theorem mapsCrc_feedChunk_crcAcc {chunk : List Byte} (h : chunk.length ≤ 12) :
    MapsCrc (feedChunk .crcAcc chunk) (fun c => crc8From c chunk) :=
  mapsCrc_feedChunk (op := .crcAcc) (f := crc8From) (fun _ hn => decide_eq_true hn)
    (fun _ hn => exec_crcAcc_of_le hn) h

/-- The later chunks, one CRC_ACC each, feed their concatenation. -/
theorem mapsCrc_laterChunks {later : List (List Byte)} (h : ∀ c ∈ later, c.length ≤ 12) :
    MapsCrc (later.flatMap (feedChunk .crcAcc)) (fun c => crc8From c later.flatten) := by
  induction later with
  | nil => exact ⟨[], rfl, fun _ => rfl⟩
  | cons chunk later ih =>
    have hrest := ih fun c hc => h c (List.mem_cons_of_mem _ hc)
    simpa only [List.flatMap_cons, List.flatten_cons, crc8From_append] using
      (mapsCrc_feedChunk_crcAcc (h chunk List.mem_cons_self)).append hrest

/-- R79's chain, for every cut into chunks that fit. -/
theorem mapsCrc_chainedChecksum {first : List Byte} {later : List (List Byte)} (hfirst : first.length ≤ 12)
    (hlater : ∀ c ∈ later, c.length ≤ 12) :
    MapsCrc (chainedChecksum first later) (fun _ => crc8 (first ++ later.flatten)) := by
  simpa only [chainedChecksum, crc8_append] using
    (mapsCrc_feedChunk_crcCalc hfirst).append (mapsCrc_laterChunks hlater)

theorem length_le_of_mem_chunksFrom {fuel : Nat} {bs c : List Byte} (h : c ∈ chunksFrom fuel bs) : c.length ≤ 12 := by
  induction fuel generalizing bs with
  | zero => cases bs <;> cases h
  | succ fuel ih =>
    cases bs with
    | nil => cases h
    | cons b bs =>
      rcases List.mem_cons.1 h with rfl | hc
      · exact List.length_take_le _ _
      · exact ih hc

/-- No byte of the message is lost or moved by the cut. -/
theorem flatten_chunksFrom {fuel : Nat} {bs : List Byte} (h : bs.length ≤ fuel) : (chunksFrom fuel bs).flatten = bs := by
  induction fuel generalizing bs with
  | zero => simp [List.eq_nil_of_length_eq_zero (Nat.le_zero.1 h), chunksFrom]
  | succ fuel ih =>
    cases bs with
    | nil => rfl
    | cons b bs =>
      have hshort : ((b :: bs).drop 12).length ≤ fuel := by
        rw [List.length_drop]
        omega
      rw [chunksFrom, List.flatten_cons, ih hshort, List.take_append_drop]

/-! ### The statements -/

/-- Settles O36, by running the loop of R76. -/
theorem publishedCheckValues : Obligations.PublishedCheckValues := by
  constructor <;> simp [crc8, crc8From, crcByte_eq_turns, crcShift_eq_ite, Config.crcInit]

/-- Settles O29. -/
theorem checksumsChain : Obligations.ChecksumsChain := ⟨crc8From_append, crc8_append⟩

/-- Settles O30: feeding the register its own value clears it, and no other byte does. -/
theorem validWordsHaveResidueZero : Obligations.ValidWordsHaveResidueZero :=
  ⟨fun _ _ => residue_eq_zero_iff.2 rfl, fun s k => (s.valid_iff k).trans residue_eq_zero_iff.symm⟩

/-- Settles O34: the flipped bit lies in one of the three bytes, and the residue changes with any one byte. -/
theorem singleBitFlipsInvalidateAWord : Obligations.SingleBitFlipsInvalidateAWord := by
  intro hi lo j
  obtain ⟨hhi, hlo, hcheck⟩ := dataWord_bytes hi lo (crc8 [hi, lo])
  rw [BitVec.extractLsb'_xor, BitVec.extractLsb'_xor, BitVec.extractLsb'_xor, hhi, hlo, hcheck]
  exact crc8_ne_of_one_byte_changed rfl (singleBit_in_one_byte j)

/-- Settles O26: `decode_encode` and `exec_crcCalc_eq`, with the checksum of no byte, of a valid word (R83) and of R77's
two bytes. -/
theorem crcCalcFollowsItsRule : Obligations.CrcCalcFollowsItsRule := by
  refine ⟨fun n hn => decode_encode (i := .crcCalc n) (decide_eq_true hn), fun s n hn => exec_crcCalc_eq hn rfl,
    fun s n hn => issue_encode_of_illFormed (i := .crcCalc n) (decide_eq_false (Nat.not_le.2 hn)) s,
    fun s => exec_crcCalc_eq (n := 0) (by decide) rfl, fun s hvalid => ?validWord, fun s h0 h1 => ?twoBytes⟩
  case validWord =>
    exact exec_crcCalc_eq (n := 3) (by decide) (residue_eq_zero_iff.2 ((s.valid_iff 0).1 hvalid))
  case twoBytes =>
    have hcrc : crc8 [s.byte 0, s.byte 1] = 0x92#8 := by rw [h0, h1, publishedCheckValues.1]
    exact (issue_encode (i := .crcCalc 2) rfl s).trans (exec_crcCalc_eq (n := 2) (by decide) hcrc)

/-- Settles O27: `decode_encode` and `exec_crcAcc_eq`, with the chaining law for the second issue; the
byte 0x00 fed from reset shows that a second issue can change CRC. -/
theorem crcAccFollowsItsRule : Obligations.CrcAccFollowsItsRule := by
  refine ⟨fun n hn => decode_encode (i := .crcAcc n) (decide_eq_true hn), fun s n hn => exec_crcAcc_eq hn rfl,
    fun s n hn => issue_encode_of_illFormed (i := .crcAcc n) (decide_eq_false (Nat.not_le.2 hn)) s,
    fun s => exec_crcAcc_eq (n := 0) (by decide) rfl, fun s t n hn ht => ?twice,
    ⟨State.reset, _, 1, exec_crcAcc_of_le (by decide) _, exec_crcAcc_again_ne (by decide) ?zeroByte⟩,
    fun s n hcrc => ?fromReset, fun s hc h0 h1 => ?twoBytes⟩
  case twice =>
    rw [exec_crcAcc_of_le hn] at ht
    cases ht
    exact exec_crcAcc_eq hn (crc8From_append _ _ _).symm
  case zeroByte =>
    have hmoves : crc8 [0x00#8] ≠ Config.crcInit := by
      simp [crc8, crc8From, crcByte_eq_turns, crcShift_eq_ite, Config.crcInit]
    exact hmoves
  case fromReset =>
    simp only [exec, execCrcAcc, hcrc]
    rfl
  case twoBytes =>
    have hcrc : crc8From s.crc [s.byte 0, s.byte 1] = 0x96#8 := by
      rw [hc, h0, h1]
      simp [crc8From, crcByte_eq_turns, crcShift_eq_ite]
    exact (issue_encode (i := .crcAcc 2) rfl s).trans (exec_crcAcc_eq (n := 2) (by decide) hcrc)

/-- Settles O28: DW_ENCODE k is `encodeWord k`, which stores one byte, the payload's checksum, and is idempotent. -/
theorem dwEncodeFollowsItsRule : Obligations.DwEncodeFollowsItsRule := by
  have hwf (k : WordIndex) : (Instr.dwEncode (BitVec.ofNat 4 k.val)).wellFormed = true :=
    decide_eq_true ((toNat_ofNat_wordIndex k).trans_lt k.isLt)
  refine ⟨fun k => decode_encode (i := .dwEncode _) (hwf k),
    fun s k => ⟨s.encodeWord k, exec_dwEncode k s, s.encodeWord_check k,
      fun j hj => s.encodeWord_byte_other k hj, rfl, ?again⟩,
    fun s n hn => issue_encode_of_illFormed (i := .dwEncode n) (decide_eq_false (Nat.not_lt.2 hn)) s, ?ones, ?zeros,
    fun s h0 h1 => ⟨s.encodeWord 0, (issue_encode (hwf 0) s).trans (exec_dwEncode 0 s), ?twoBytes⟩⟩
  case ones | zeros => simp [crc8, crc8From, crcByte_eq_turns, crcShift_eq_ite, Config.crcInit]
  case again => exact (exec_dwEncode k _).trans (congrArg _ (s.encodeWord_idem k))
  case twoBytes =>
    refine (s.encodeWord_check 0).trans ?_
    rw [show s.payloadCrc 0 = crc8 [s.byte 0, s.byte 1] from rfl, h0, h1]
    simp [crc8, crc8From, crcByte_eq_turns, crcShift_eq_ite, Config.crcInit]

/-- Settles O33: the encoded word is valid, so DW_CHECK accepts it and writes its payload. -/
theorem encodedWordsAreAccepted : Obligations.EncodedWordsAreAccepted := by
  intro s k
  have hvalid := s.encodeWord_valid k
  refine ⟨s.encodeWord k, _, exec_dwEncode k s, hvalid, exec_dwCheck_of_valid hvalid,
    (fields_statusWord true false false false 0x0#4).1, ?_⟩
  simpa using State.writeWord_word (s.encodeWord k) k k

/-- Settles O32: each chunk's lines take CRC to itself fed the chunk, and the cut at every 12 bytes keeps the message. -/
theorem everyMessageChecksumCanBeComputed : Obligations.EveryMessageChecksumCanBeComputed := by
  refine ⟨fun first later s hfirst hlater => ?anyCut, fun message s => ?everyTwelve⟩
  case anyCut =>
    obtain ⟨xs, hxs, hcrc⟩ := mapsCrc_chainedChecksum hfirst hlater
    exact ⟨xs, hxs, hcrc s⟩
  case everyTwelve =>
    obtain ⟨xs, hxs, hcrc⟩ := mapsCrc_chainedChecksum (List.length_take_le 12 message)
      (fun _ hc => length_le_of_mem_chunksFrom (fuel := message.length) (bs := message.drop 12) hc)
    rw [flatten_chunksFrom (by simp), List.take_append_drop] at hcrc
    exact ⟨xs, hxs, hcrc s⟩

end Sys2Proof.Machine
end

section
/-! PROOFS. Family 41_dataword.md. First the layer of facts: the payload and the check byte of one word, the loop of R96, how
a check ends, each check by what it finds, and the mask of a check that stops early; then the statements. -/

namespace Sys2Proof.Machine

/-! ### The payload and the check byte of a word (R89, R90) -/

/-- The payload is big-endian: its first byte is the high one (R90). -/
theorem State.payload_toNat (s : State) (k : WordIndex) :
    (s.payload k).toNat = 256 * (s.byte (hiIndex k)).toNat + (s.byte (loIndex k)).toNat := by
  rw [State.payload_eq, BitVec.toNat_append, ← Nat.shiftLeft_add_eq_or_of_lt (s.byte (loIndex k)).isLt,
    Nat.shiftLeft_eq, Nat.mul_comm]

theorem loIndex_ne_hiIndex (k : WordIndex) : loIndex k ≠ hiIndex k := by
  simp [hiIndex, loIndex]

/-- The payload of word k written to the buffer as the host writes it, high byte first (R75). -/
def State.loadPayload (s : State) (k : WordIndex) (p : Payload) : State :=
  (s.setByte (hiIndex k) (field p 8 8)).setByte (loIndex k) (field p 0 8)

theorem State.loadPayload_payload (s : State) (k : WordIndex) (p : Payload) : (s.loadPayload k p).payload k = p := by
  have hbytes : (field p 8 8 : Byte) ++ (field p 0 8 : Byte) = p :=
    (BitVec.extractLsb'_append_extractLsb'_eq_extractLsb' (w := 16) (by rfl)).trans BitVec.extractLsb'_eq_self
  rw [State.payload_eq, State.loadPayload, State.setByte_byte_same,
    State.setByte_byte_other _ _ _ _ (loIndex_ne_hiIndex k), State.setByte_byte_same, hbytes]

theorem State.valid_eq_false_iff (s : State) (k : WordIndex) :
    s.valid k = false ↔ crc8 [s.byte (hiIndex k), s.byte (loIndex k)] ≠ s.byte (checkIndex k) := by
  rw [← Bool.not_eq_true, ne_eq, State.valid_iff]

/-- A word given by its three bytes. -/
theorem State.valid_and_payload_of_bytes {s : State} {k : WordIndex} {hi lo c : Byte} (hcrc : crc8 [hi, lo] = c)
    (hhi : s.byte (hiIndex k) = hi) (hlo : s.byte (loIndex k) = lo) (hc : s.byte (checkIndex k) = c) :
    s.valid k = true ∧ s.payload k = hi ++ lo := by
  rw [State.valid_iff, State.payload_eq, hhi, hlo, hc]
  exact ⟨hcrc, rfl⟩

/-- The check bytes of a payload of zeros and of the payloads in the examples of R91 and R96. -/
theorem crc8_examplePayloads :
    crc8 [0x00#8, 0x00#8] = 0x81#8 ∧ crc8 [0x01#8, 0x02#8] = 0x17#8 ∧ crc8 [0x09#8, 0x01#8] = 0x73#8 ∧
      crc8 [0x01#8, 0x8A#8] = 0xD4#8 := by
  refine ⟨?_, ?_, ?_, ?_⟩ <;> simp [crc8, crc8From, crcByte_eq_turns, crcShift_eq_ite, Config.crcInit]

/-- The check byte that makes a word valid is the checksum of its payload, and no other (R90). -/
theorem State.setByte_checkIndex_valid_iff (s : State) (k : WordIndex) (d : Byte) :
    (s.setByte (checkIndex k) d).valid k = true ↔ d = s.payloadCrc k := by
  rw [State.valid, beq_iff_eq, State.setByte_checkIndex_payloadCrc, State.check_eq, State.setByte_byte_same, eq_comm]

/-- All of the 256 bytes but one differ from it. -/
theorem length_filter_ofNat_ne (c : Byte) :
    ((List.range 256).filter fun d => BitVec.ofNat 8 d != c).length = 255 := by
  have herase : ((List.range 256).filter fun d => BitVec.ofNat 8 d != c) = (List.range 256).erase c.toNat := by
    rw [List.nodup_range.erase_eq_filter]
    refine List.filter_congr fun d hd => ?_
    have hnum : (BitVec.ofNat 8 d).toNat = d := Nat.mod_eq_of_lt (List.mem_range.1 hd)
    rw [Bool.eq_iff_iff, bne_iff_ne, bne_iff_ne, ← BitVec.toNat_ne_iff_ne, hnum]
  rw [herase, List.length_erase_of_mem (List.mem_range.2 c.isLt), List.length_range]

/-! ### The loop of R96, one word at a time -/

theorem State.writeWords_zero (s : State) : s.writeWords 0 = s := by
  simp [State.writeWords, State.setWords]

theorem State.writeWords_succ (s : State) (k : WordIndex) :
    s.writeWords (k.val + 1) = (s.writeWords k.val).writeWord k := by
  have hword : (s.writeWords (k.val + 1)).word = ((s.writeWords k.val).writeWord k).word := by
    refine Vector.ext fun j hj => ?_
    have hpayload : (s.writeWords k.val).payload k = s.payload k := rfl
    have hwords (n : Nat) := s.writeWords_word n ⟨j, hj⟩
    have hlast := (s.writeWords k.val).writeWord_word k ⟨j, hj⟩
    simp only [Fin.getElem_fin, Fin.ext_iff] at hwords hlast
    rw [hlast, hwords, hwords]
    rcases lt_trichotomy j k.val with hlt | heq | hgt
    · rw [if_pos (by omega), if_neg (by omega), if_pos hlt]
    · subst heq
      simp [hpayload]
    · rw [if_neg (by omega), if_neg (by omega), if_neg (by omega)]
  rw [State.writeWords_eq, hword]
  rfl

/-- The frame of one word is word 0 (R101). -/
theorem State.writeWords_one (s : State) : s.writeWords 1 = s.writeWord 0 :=
  (s.writeWords_succ 0).trans (congrArg (State.writeWord · 0) s.writeWords_zero)

theorem State.writeWords_two (s : State) :
    (s.writeWords 2).word = (s.word.set 0 (s.payload 0)).set 1 (s.payload 1) := by
  have hloop : s.writeWords 2 = (s.writeWord 0).writeWord 1 :=
    (s.writeWords_succ 1).trans (congrArg (State.writeWord · 1) s.writeWords_one)
  rw [hloop]
  rfl

/-! ### How a check ends (R91, R96) -/

/-- Bits 31:8 of a STATUS value built from its fields are 0 (R31). -/
theorem statusWord_reserved (ok crcErr idMatch illegal : Bool) (wfail : Nibble) :
    (statusWord ok crcErr idMatch illegal wfail).extractLsb' 8 24 = 0#24 :=
  field_zext_eq_zero _ (Nat.le_refl 8)

/-- A check that finds an invalid word writes STATUS as R122 says, in the state its operation rejects with. -/
theorem concludeCheck_of_ne {fail : Nibble} (h : fail ≠ 0x0#4) (accepted rejected : State) :
    concludeCheck fail accepted rejected = { rejected with status := zext 32 (concat fail 0b0010#4) } := by
  rw [← statusChecksumError_eq]
  exact if_neg h

/-- R94: a check of a frame that accepts with OK and rejects with the WORD registers as they were is all or nothing. -/
theorem concludeCheck_allOrNothing {s accepted rejected : State} {n : Nat}
    (hok : statusOk accepted.status = true) (hword : rejected.word = s.word) :
    (statusOk (concludeCheck (s.failMask n) accepted rejected).status = true ↔
        ∀ k : WordIndex, k.val < n → s.valid k = true) ∧
      (statusOk (concludeCheck (s.failMask n) accepted rejected).status = false →
        (concludeCheck (s.failMask n) accepted rejected).word = s.word) := by
  rw [← State.failMask_eq_zero]
  rcases concludeCheck_cases (s.failMask n) accepted rejected with ⟨hzero, heq⟩ | ⟨hne, heq⟩
  · rw [heq]
    simp [hzero, hok]
  · have hnot : statusOk (statusChecksumError (s.failMask n)) = false := (fields_statusWord _ _ _ _ _).1
    simp [heq, hne, hnot, hword]

theorem statusOk_accepted : statusOk statusAccepted = true := (fields_statusWord _ _ _ _ _).1

theorem statusOk_identified (idMatch : Bool) : statusOk (statusIdentified idMatch) = true :=
  (fields_statusWord _ _ _ _ _).1

/-! ### DW_CHECK and FRAME_CHECK by what they find -/

/-- A word index as an operand is legal for DW_CHECK (R66). -/
theorem wellFormed_dwCheck (k : WordIndex) : (Instr.dwCheck (BitVec.ofNat 4 k.val)).wellFormed = true :=
  decide_eq_true ((toNat_ofNat_wordIndex k).trans_lt k.isLt)

theorem wellFormed_frameCheck {n : Nibble} (hlo : 1 ≤ n.toNat) (hhi : n.toNat ≤ 4) :
    (Instr.frameCheck n).wellFormed = true := by
  simp [Instr.wellFormed, hlo, hhi]

/-- DW_CHECK of a valid word with payload `p` writes it to WORD[k] and sets OK, and nothing else (R91). -/
theorem exec_dwCheck_payload {k : WordIndex} {s : State} {p : Payload} (h : s.valid k = true) (hp : s.payload k = p) :
    exec (.dwCheck (BitVec.ofNat 4 k.val)) s =
      .next { s with word := s.word.set k.val p, status := 0x00000001#32 } :=
  hp ▸ exec_dwCheck_of_valid h

theorem oneBit_ne_zero : ∀ k : WordIndex, 0x1#4 <<< k.val ≠ 0x0#4 := by decide

/-- DW_CHECK of an invalid word writes STATUS alone, its WFAIL bit k alone (R91). -/
theorem exec_dwCheck_of_invalid {k : WordIndex} {s : State} (h : s.valid k = false) :
    exec (.dwCheck (BitVec.ofNat 4 k.val)) s =
      .next { s with status := zext 32 (concat (0x1#4 <<< k.val) 0b0010#4) } := by
  simp only [exec, execDwCheck, wordIndex_ofNat, withOperand, h, Bool.false_eq_true, if_false,
    concludeCheck_of_ne (oneBit_ne_zero k)]

theorem exec_frameCheck_of_valid {n : Nibble} (hlo : 1 ≤ n.toNat) (hhi : n.toNat ≤ 4) {s : State}
    (h : ∀ k : WordIndex, k.val < n.toNat → s.valid k = true) :
    exec (.frameCheck n) s = .next ((s.writeWords n.toNat).setStatus statusAccepted) := by
  rw [exec_frameCheck_of_le hlo hhi, ← s.failMask_frameCheck hhi, (s.failMask_eq_zero _).2 h]
  rfl

/-- FRAME_CHECK of a frame with an invalid word writes STATUS alone, every failing word's WFAIL bit set (R96, R97). -/
theorem exec_frameCheck_of_invalid {n : Nibble} (hlo : 1 ≤ n.toNat) (hhi : n.toNat ≤ 4) {s : State}
    (h : s.failMask n.toNat ≠ 0x0#4) :
    exec (.frameCheck n) s = .next { s with status := zext 32 (concat (s.failMask n.toNat) 0b0010#4) } := by
  rw [exec_frameCheck_of_le hlo hhi, ← s.failMask_frameCheck hhi, concludeCheck_of_ne h]

theorem State.failMask_ne_zero_iff (s : State) (n : Nat) :
    s.failMask n ≠ 0x0#4 ↔ ∃ k : WordIndex, k.val < n ∧ s.valid k = false := by
  simp [State.failMask_eq_zero]

/-- DW_CHECK 0 and FRAME_CHECK 1 look at the same words, and so have the same mask (R101). -/
theorem State.checkMask_dwCheck_zero (s : State) : s.checkMask (.dwCheck 0) = s.checkMask (.frameCheck 1) := by
  have hwords : ∀ k, checksWord (.dwCheck 0) k = checksWord (.frameCheck 1) k := by decide
  exact State.eq_checkMask fun k => by rw [State.checkMask_bit, hwords]

/-! ### The check that stops early (R97) -/

theorem State.failMask_bit_eq_laneFails (s : State) (n : Nat) (k : WordIndex) :
    (s.failMask n).getLsbD k.val = s.laneFails n k :=
  s.failMask_bit n k

/-- The word an early exit stops at fails, and no word below it does. -/
theorem State.firstFailing_eq_some {s : State} {n : Nat} {k : WordIndex} (h : s.firstFailing n = some k) :
    s.laneFails n k = true ∧ ∀ j, j < k → s.laneFails n j = false := by
  obtain ⟨hk, i, hi, rfl, hbefore⟩ := List.find?_eq_some_iff_getElem.1 h
  refine ⟨hk, fun j hj => ?_⟩
  simpa using hbefore j.val (by simpa [Fin.lt_def] using hj)

theorem State.firstFailing_eq_none (s : State) (n : Nat) :
    s.firstFailing n = none ↔ ∀ k, s.laneFails n k = false := by
  simp [State.firstFailing]

/-- The early exit shows the bit of the word it stops at. -/
theorem State.earlyMask_bit (s : State) (n : Nat) (j : WordIndex) :
    (s.earlyMask n).getLsbD j.val = decide (s.firstFailing n = some j) := by
  have hone : ∀ k j : WordIndex, (0x1#4 <<< k.val).getLsbD j.val = decide (some k = some j) := by decide
  cases h : s.firstFailing n with
  | none => simp [State.earlyMask, h]
  | some k => simpa only [State.earlyMask, h] using hone k j

theorem State.failMask_eq_zero_iff_firstFailing (s : State) (n : Nat) :
    s.failMask n = 0x0#4 ↔ s.firstFailing n = none := by
  rw [State.failMask_eq_zero, State.firstFailing_eq_none]
  simp [State.laneFails]

theorem State.earlyMask_eq_zero_iff_firstFailing (s : State) (n : Nat) :
    s.earlyMask n = 0x0#4 ↔ s.firstFailing n = none := by
  cases h : s.firstFailing n with
  | none => simp [State.earlyMask, h]
  | some k => simpa [State.earlyMask, h] using oneBit_ne_zero k

/-- Stopping early does not change whether the frame is accepted. -/
theorem State.earlyMask_eq_zero_iff (s : State) (n : Nat) : s.earlyMask n = 0x0#4 ↔ s.failMask n = 0x0#4 :=
  (s.earlyMask_eq_zero_iff_firstFailing n).trans (s.failMask_eq_zero_iff_firstFailing n).symm

/-- A WFAIL bit that an early exit leaves out is above the word it stops at. -/
theorem State.exists_fails_below_of_bit_ne {s : State} {n : Nat} {j : WordIndex}
    (h : (s.earlyMask n).getLsbD j.val ≠ (s.failMask n).getLsbD j.val) :
    ∃ k : WordIndex, k < j ∧ s.laneFails n k = true := by
  rw [State.earlyMask_bit, State.failMask_bit_eq_laneFails] at h
  cases hfirst : s.firstFailing n with
  | none => simp [hfirst, (s.firstFailing_eq_none n).1 hfirst j] at h
  | some k =>
    obtain ⟨hk, hbelow⟩ := State.firstFailing_eq_some hfirst
    refine ⟨k, ?_, hk⟩
    rcases lt_trichotomy k j with hlt | rfl | hgt
    · exact hlt
    · simp [hfirst, hk] at h
    · simp [hfirst, hbelow j hgt, hgt.ne'] at h

/-- R97's claim of two results `u` and `t` of one frame check: they differ in STATUS alone, and there in WFAIL bits above a
failing word alone. -/
def State.DifferAboveFailing (s : State) (n : Nat) (u t : State) : Prop :=
  { u with status := t.status } = t ∧ statusOk u.status = statusOk t.status ∧
    statusCrcErr u.status = statusCrcErr t.status ∧ statusIdMatch u.status = statusIdMatch t.status ∧
    statusIllegal u.status = statusIllegal t.status ∧
    u.status.extractLsb' 8 24 = t.status.extractLsb' 8 24 ∧
    (∀ j : WordIndex, (statusWfail u.status).getLsbD j.val ≠ (statusWfail t.status).getLsbD j.val →
      ∃ k : WordIndex, k < j ∧ s.laneFails n k = true)

theorem State.DifferAboveFailing.refl (s : State) (n : Nat) (t : State) : s.DifferAboveFailing n t t :=
  ⟨rfl, rfl, rfl, rfl, rfl, rfl, fun _ h => absurd rfl h⟩

/-- Two ChecksumErrors differ as R97 says where their masks do. -/
theorem State.differAboveFailing_checksumError {s : State} {n : Nat} {early full : Nibble}
    (h : ∀ j : WordIndex, early.getLsbD j.val ≠ full.getLsbD j.val →
      ∃ k : WordIndex, k < j ∧ s.laneFails n k = true) :
    s.DifferAboveFailing n { s with status := statusChecksumError early }
      { s with status := statusChecksumError full } := by
  simpa [State.DifferAboveFailing, statusChecksumError, fields_statusWord, statusWord_reserved] using h

/-- Accepted or rejected, the two masks end the check in results that differ as R97 says. -/
theorem State.differAboveFailing_concludeCheck (s : State) (n : Nat) (accepted : State) :
    s.DifferAboveFailing n (concludeCheck (s.earlyMask n) accepted s) (concludeCheck (s.failMask n) accepted s) := by
  by_cases hzero : s.failMask n = 0x0#4
  · rw [(s.earlyMask_eq_zero_iff n).2 hzero, hzero]
    exact .refl s n _
  · have hearly : s.earlyMask n ≠ 0x0#4 := mt (s.earlyMask_eq_zero_iff n).1 hzero
    rw [concludeCheck_of_ne hearly, concludeCheck_of_ne hzero, ← statusChecksumError_eq, ← statusChecksumError_eq]
    exact State.differAboveFailing_checksumError fun j => State.exists_fails_below_of_bit_ne

/-! ### The statements -/

/-- Settles O37: the checksum of the payload is the one check byte, and it stands once among the 256. -/
theorem oneCheckByteIsValidForEachPayload : Obligations.OneCheckByteIsValidForEachPayload := by
  refine ⟨State.payload_toNat, fun k p => ⟨_, State.reset.loadPayload_payload k p⟩,
    fun s k => ⟨_, s.setByte_checkIndex_valid_iff k⟩, fun s k => ?_⟩
  rw [← length_filter_ofNat_ne (s.payloadCrc k)]
  refine congrArg List.length (List.filter_congr fun d _ => ?_)
  rw [Bool.eq_iff_iff, Bool.not_eq_true', ← Bool.not_eq_true, State.setByte_checkIndex_valid_iff, bne_iff_ne]

/-- Settles O38: `exec_dwCheck_payload` and `exec_dwCheck_of_invalid`, with the checksums of a payload of zeros and of the
rule's example. -/
theorem dwCheckFollowsItsRule : Obligations.DwCheckFollowsItsRule := by
  obtain ⟨hzeros, hmeasured, -, -⟩ := crc8_examplePayloads
  refine ⟨fun k => decode_encode (i := .dwCheck _) (wellFormed_dwCheck k),
    fun s k h => exec_dwCheck_payload ((s.valid_iff k).2 h) (s.payload_eq k),
    fun s k h => exec_dwCheck_of_invalid ((s.valid_eq_false_iff k).2 h),
    fun s n hn => issue_encode_of_illFormed (i := .dwCheck n) (decide_eq_false (Nat.not_lt.2 hn)) s,
    fun s k hzero => (s.valid_eq_false_iff k).2 ?zeros, fun s h0 h1 h2 => ?measured⟩
  case zeros =>
    rw [hzero, hzero, hzero, hzeros]
    decide
  case measured =>
    obtain ⟨hvalid, hpayload⟩ := State.valid_and_payload_of_bytes (k := 0) hmeasured h0 h1 h2
    exact (issue_encode (wellFormed_dwCheck 0) s).trans (exec_dwCheck_payload hvalid hpayload)

/-- Settles O39: `exec_frameCheck_of_valid` and `exec_frameCheck_of_invalid`; the rule's example is the loop of R96 run over
two valid words. -/
theorem frameCheckFollowsItsRule : Obligations.FrameCheckFollowsItsRule := by
  refine ⟨fun n hlo hhi => decode_encode (i := .frameCheck n) (wellFormed_frameCheck hlo hhi),
    fun s n hlo hhi hvalid => ⟨(s.writeWords n.toNat).word, fun k => ?words, exec_frameCheck_of_valid hlo hhi hvalid⟩,
    fun s n hlo hhi hinvalid =>
      ⟨s.failMask n.toNat, s.failMask_bit n.toNat, ?mask, exec_frameCheck_of_invalid hlo hhi ?mask⟩,
    fun s n hn => issue_encode_of_illFormed (i := .frameCheck n) ?illegal s, fun s h0 h1 h2 h3 h4 h5 => ?identified⟩
  case words => rw [State.writeWords_word, State.payload_eq]
  case mask => exact (s.failMask_ne_zero_iff _).2 hinvalid
  case illegal =>
    simp only [Instr.wellFormed, Bool.and_eq_false_iff, decide_eq_false_iff_not]
    omega
  case identified =>
    obtain ⟨-, -, hcrc0, hcrc1⟩ := crc8_examplePayloads
    obtain ⟨hvalid0, hpayload0⟩ := State.valid_and_payload_of_bytes (k := 0) hcrc0 h0 h1 h2
    obtain ⟨hvalid1, hpayload1⟩ := State.valid_and_payload_of_bytes (k := 1) hcrc1 h3 h4 h5
    have hvalid : ∀ k : WordIndex, k.val < 2 → s.valid k = true := by
      simp [Fin.forall_fin_succ, hvalid0, hvalid1]
    have hwords : (s.writeWords 2).word = (s.word.set 0 0x0901#16).set 1 0x018A#16 := by
      rw [s.writeWords_two, hpayload0, hpayload1]
      rfl
    calc issue 0x00000025#32 s = exec (.frameCheck 2) s := issue_encode (i := .frameCheck 2) rfl s
      _ = .next ((s.writeWords 2).setStatus statusAccepted) := exec_frameCheck_of_valid (by decide) (by decide) hvalid
      _ = _ := by rw [State.writeWords_eq, hwords]; rfl

/-- Settles O40: each of the three operations ends a check of words 0 to n-1 that rejects without writing a WORD. -/
theorem framesAreAcceptedAsAUnit : Obligations.FramesAreAcceptedAsAUnit := by
  rintro s i n (⟨a, rfl, rfl, hlo, hhi⟩ | ⟨rfl, rfl⟩ | ⟨rfl, rfl⟩)
  · rw [exec_frameCheck_of_le hlo hhi, ← s.failMask_frameCheck hhi]
    exact ⟨_, rfl, concludeCheck_allOrNothing statusOk_accepted rfl⟩
  · exact ⟨_, rfl, concludeCheck_allOrNothing statusOk_accepted rfl⟩
  · exact ⟨_, rfl, concludeCheck_allOrNothing (statusOk_identified _) rfl⟩

/-- Settles O41: the two checks have one mask and, accepted, write one word. -/
theorem dwCheckZeroAgreesWithFrameCheckOne : Obligations.DwCheckZeroAgreesWithFrameCheckOne := by
  refine fun s => ⟨?_, fun hinvalid => exec_dwCheck_of_invalid (k := 0) hinvalid⟩
  calc exec (.dwCheck 0) s
      = .next (concludeCheck (s.checkMask (.dwCheck 0)) ((s.writeWord 0).setStatus statusAccepted) s) :=
        exec_dwCheck_of_lt (by decide) s
    _ = .next (concludeCheck (s.checkMask (.frameCheck 1)) ((s.writeWords 1).setStatus statusAccepted) s) := by
        rw [s.checkMask_dwCheck_zero, s.writeWords_one]
    _ = exec (.frameCheck 1) s := (exec_frameCheck_of_le (by decide) (by decide) s).symm

/-- Settles O42: an illegal ARG gives both the same STATUS; at a legal one the masks differ above a failing word alone. -/
theorem earlyExitDiffersOnlyInWfail : Obligations.EarlyExitDiffersOnlyInWfail := by
  intro s n
  cases hcount : wordCount n with
  | none =>
    have hboth (op : Nat → State) : withOperand (wordCount n) s op = .next (raiseError .illegalOperation s) := by
      rw [hcount, withOperand]
    exact ⟨_, _, hboth _, hboth _, State.DifferAboveFailing.refl s n.toNat _⟩
  | some m =>
    obtain ⟨rfl, -⟩ := (wordCount_eq_some n m).1 hcount
    have hboth (op : Nat → State) : withOperand (wordCount n) s op = .next (op n.toNat) := by
      rw [hcount, withOperand]
    exact ⟨_, _, hboth _, hboth _, s.differAboveFailing_concludeCheck n.toNat _⟩

end Sys2Proof.Machine
end

section
/-! PROOFS. Family 42_extract.md. First the layer of facts: a CTRL value that holds the OP of an operation without an operand,
the words of a frame as they stand in the buffer, the WORD registers a frame write leaves, the product ID, each extractor by
what it finds, and the host's affine conversions; then the statements. -/

namespace Sys2Proof.Machine

/-! ### The operations without an operand (R66, R68) -/

/-- A value that holds the OP of an operation without an operand and is not that OP alone is illegal: ARG or RSV is not 0
(R68, R69, R123). -/
theorem issue_of_opcode_of_ne {v : Word} {op : Nat} (hop : v.toNat % 16 = op) (hno : op = 0 ∨ op = 6 ∨ op = 7)
    (hne : v ≠ BitVec.ofNat 32 op) (s : State) : issue v s = .next { s with status := 0x00000008#32 } := by
  refine illegalValuesRaiseIllegalOperation v s ?_
  have hnum : v.toNat ≠ op := fun h => hne (BitVec.eq_of_toNat_eq (by rw [h, BitVec.toNat_ofNat]; omega))
  omega

/-! ### The words of a given buffer (R23) -/

theorem State.byte_of_bytes {s : State} {n : Nat} {bs : List Byte} (h : s.bytes n = bs) {i : BufIndex} {b : Byte}
    (hi : i.val < n) (hb : bs[i.val]? = some b) : s.byte i = b := by
  rw [← h, s.bytes_getElem? n i hi] at hb
  exact Option.some.inj hb

/-- A word whose three bytes stand in a given buffer. -/
theorem State.valid_and_payload_of_getElem? {s : State} {n : Nat} {bs : List Byte} (h : s.bytes n = bs) {k : WordIndex}
    (hk : (checkIndex k).val < n) {hi lo c : Byte} (hhi : bs[(hiIndex k).val]? = some hi)
    (hlo : bs[(loIndex k).val]? = some lo) (hc : bs[(checkIndex k).val]? = some c) (hcrc : crc8 [hi, lo] = c) :
    s.valid k = true ∧ s.payload k = hi ++ lo :=
  State.valid_and_payload_of_bytes hcrc
    (State.byte_of_bytes h (by simp only [checkIndex, hiIndex] at hk ⊢; omega) hhi)
    (State.byte_of_bytes h (by simp only [checkIndex, loIndex] at hk ⊢; omega) hlo)
    (State.byte_of_bytes h hk hc)

/-- The check bytes in R102's example that `crc8_examplePayloads` does not give. -/
theorem crc8_measurementPayloads :
    crc8 [0x66#8, 0x66#8] = 0x93#8 ∧ crc8 [0x80#8, 0x00#8] = 0xA2#8 ∧ crc8 [0x12#8, 0x34#8] = 0x37#8 := by
  refine ⟨?_, ?_, ?_⟩ <;> simp [crc8, crc8From, crcByte_eq_turns, crcShift_eq_ite, Config.crcInit]

/-! ### The WORD registers after a frame write (R96) -/

theorem State.writeWords_two_word (s : State) :
    (s.writeWords 2).word = #v[s.payload 0, s.payload 1, s.word[2], s.word[3]] := rfl

theorem State.writeWords_four_word (s : State) :
    (s.writeWords 4).word = #v[s.payload 0, s.payload 1, s.payload 2, s.payload 3] := rfl

/-! ### The assembled product ID (R107) -/

theorem State.assembledId_eq_payloads (s : State) : s.assembledId = concat (s.payload 0) (s.payload 1) := by
  rw [State.payload_eq, State.payload_eq]
  exact (BitVec.append_assoc (x₁ := s.byte 0) (x₂ := s.byte 1) (x₃ := s.byte 3 ++ s.byte 4)).symm

theorem State.assembledId_bytes (s : State) :
    s.assembledId.extractLsb' 24 8 = s.byte 0 ∧ s.assembledId.extractLsb' 16 8 = s.byte 1 ∧
      s.assembledId.extractLsb' 8 8 = s.byte 3 ∧ s.assembledId.extractLsb' 0 8 = s.byte 4 := by
  have hlow (lo : Nat) (h : lo + 8 ≤ 16) :
      s.assembledId.extractLsb' lo 8 = (s.byte 3 ++ s.byte 4).extractLsb' lo 8 :=
    (BitVec.extractLsb'_append_eq_of_add_le (by omega)).trans (BitVec.extractLsb'_append_eq_of_add_le h)
  exact ⟨BitVec.extractLsb'_append_eq_left,
    (BitVec.extractLsb'_append_eq_of_add_le (by decide)).trans BitVec.extractLsb'_append_eq_left,
    (hlow 8 (by decide)).trans BitVec.extractLsb'_append_eq_left,
    (hlow 0 (by decide)).trans BitVec.extractLsb'_append_eq_right⟩

/-! ### MEAS_EXTRACT by what it finds (R102) -/

/-- An accepted MEAS_EXTRACT of a frame with payloads `c`, `t`, `h` and `m` (R102, R103). -/
theorem exec_measExtract_payloads {s : State} {c t h m : Payload} (hvalid : ∀ k, s.valid k = true)
    (hc : s.payload 0 = c) (ht : s.payload 1 = t) (hh : s.payload 2 = h) (hm : s.payload 3 = m) :
    exec .measExtract s = .next { s with
      word := #v[c, t, h, m], co2 := c, traw := t, hraw := h, mstat := m, status := 0x00000001#32 } := by
  subst hc ht hh hm
  have hmask : s.failMask 4 = 0x0#4 := (s.failMask_eq_zero 4).2 fun k _ => hvalid k
  rw [exec_measExtract, ← s.failMask_measExtract, hmask, ← s.writeWords_four_word]
  rfl

/-- A rejected MEAS_EXTRACT writes STATUS alone (R102). -/
theorem exec_measExtract_of_invalid {s : State} (h : s.failMask 4 ≠ 0x0#4) :
    exec .measExtract s = .next { s with status := zext 32 (concat (s.failMask 4) 0b0010#4) } := by
  rw [exec_measExtract, ← s.failMask_measExtract, concludeCheck_of_ne h]

/-! ### PID_EXTRACT by what it finds (R104) -/

theorem State.failMask_two_eq_zero_iff (s : State) :
    s.failMask 2 = 0x0#4 ↔ s.valid 0 = true ∧ s.valid 1 = true := by
  simp [State.failMask_eq_zero, Fin.forall_fin_succ]

theorem State.failMask_two_ne_zero {s : State} (h : s.valid 0 = false ∨ s.valid 1 = false) :
    s.failMask 2 ≠ 0x0#4 := by
  rw [ne_eq, s.failMask_two_eq_zero_iff]
  rintro ⟨h0, h1⟩
  simp [h0, h1] at h

theorem statusIdentified_eq (id expid : Word) :
    statusIdentified (id == expid) = if id = expid then 0x00000005#32 else 0x00000001#32 := by
  by_cases h : id = expid
  · rw [if_pos h, beq_iff_eq.2 h, statusIdentified_true]
  · rw [if_neg h, beq_eq_false_iff_ne.2 h, statusIdentified_false]

theorem extractProductId_of_valid (expid : Word) {s : State} (h0 : s.valid 0 = true) (h1 : s.valid 1 = true) :
    extractProductId expid s = acceptProductId expid s := by
  rw [extractProductId, s.failMask_two_eq_zero_iff.2 ⟨h0, h1⟩]
  rfl

/-- A rejected PID_EXTRACT writes PID, the sentinel 0, and STATUS (R106). -/
theorem extractProductId_of_invalid (expid : Word) {s : State} (h : s.valid 0 = false ∨ s.valid 1 = false) :
    extractProductId expid s =
      { s with pid := 0x00000000#32, status := zext 32 (concat (s.failMask 2) 0b0010#4) } :=
  concludeCheck_of_ne (State.failMask_two_ne_zero h) _ _

/-- The machine runs PID_EXTRACT with its own EXPID. -/
theorem exec_pidExtract_eq (s : State) : exec .pidExtract s = .next (extractProductId Config.expectedId s) := rfl

/-- The fields an accepted PID_EXTRACT writes, and no other (R104). -/
theorem acceptProductId_eq (expid : Word) (s : State) :
    acceptProductId expid s = { s with
      word := #v[s.payload 0, s.payload 1, s.word[2], s.word[3]], pid := s.assembledId,
      status := if s.assembledId = expid then 0x00000005#32 else 0x00000001#32 } := by
  rw [← statusIdentified_eq, ← s.writeWords_two_word]
  rfl

/-! ### The host's conversions (R109, R110) -/

/-- Both conversions are affine with a positive slope. -/
theorem affine_mono {slope offset : Rat} (hslope : 0 ≤ slope) {a b : Nat} (h : a ≤ b) :
    (a : Rat) * slope / 65536 - offset ≤ (b : Rat) * slope / 65536 - offset := by
  gcongr

/-- No integer division and no truncation (R109, R110). -/
theorem affine_mul (slope offset : Rat) (a : Nat) :
    ((a : Rat) * slope / 65536 - offset) * 65536 = (a : Rat) * slope - offset * 65536 := by
  ring

theorem payload_toNat_le (raw : Payload) : raw.toNat ≤ (0xFFFF#16).toNat := Nat.le_of_lt_succ raw.isLt

theorem temperature_mono {a b : Payload} (h : a.toNat ≤ b.toNat) : temperature a ≤ temperature b :=
  affine_mono (by norm_num) h

theorem humidity_mono {a b : Payload} (h : a.toNat ≤ b.toNat) : humidity a ≤ humidity b :=
  affine_mono (by norm_num) h

/-- T at the least and the greatest raw word (R114). -/
theorem temperature_endPoints : temperature 0x0000#16 = -45 ∧ temperature 0xFFFF#16 = 8519505 / 65536 := by
  norm_num [temperature]

/-- H at the least and the greatest raw word (R114). -/
theorem humidity_endPoints : humidity 0x0000#16 = -6 ∧ humidity 0xFFFF#16 = 7798659 / 65536 := by
  norm_num [humidity]

/-! ### The statements -/

/-- Settles O43: `exec_measExtract_payloads` and `exec_measExtract_of_invalid`; the rule's example is four valid words. -/
theorem measExtractFollowsItsRule : Obligations.MeasExtractFollowsItsRule := by
  refine ⟨decode_encode (i := .measExtract) rfl,
    fun s hvalid => exec_measExtract_payloads hvalid (s.payload_eq 0) (s.payload_eq 1) (s.payload_eq 2) (s.payload_eq 3),
    fun s hinvalid => ⟨s.failMask 4, fun k => ?bits, ?mask, exec_measExtract_of_invalid ?mask⟩,
    fun s v hop hne => issue_of_opcode_of_ne hop (by decide) hne s, fun s hbytes => ?measured⟩
  case bits => simpa using s.failMask_bit 4 k
  case mask => simpa [s.failMask_ne_zero_iff] using hinvalid
  case measured =>
    obtain ⟨-, hcrc0, -, -⟩ := crc8_examplePayloads
    obtain ⟨hcrc1, hcrc2, hcrc3⟩ := crc8_measurementPayloads
    obtain ⟨hvalid0, hpayload0⟩ := State.valid_and_payload_of_getElem? hbytes (k := 0) (by decide) rfl rfl rfl hcrc0
    obtain ⟨hvalid1, hpayload1⟩ := State.valid_and_payload_of_getElem? hbytes (k := 1) (by decide) rfl rfl rfl hcrc1
    obtain ⟨hvalid2, hpayload2⟩ := State.valid_and_payload_of_getElem? hbytes (k := 2) (by decide) rfl rfl rfl hcrc2
    obtain ⟨hvalid3, hpayload3⟩ := State.valid_and_payload_of_getElem? hbytes (k := 3) (by decide) rfl rfl rfl hcrc3
    have hvalid : ∀ k, s.valid k = true := by
      simp [Fin.forall_fin_succ, hvalid0, hvalid1, hvalid2, hvalid3]
    exact ⟨_, (issue_encode (i := .measExtract) rfl s).trans
      (exec_measExtract_payloads hvalid hpayload0 hpayload1 hpayload2 hpayload3), rfl, rfl, rfl, rfl, rfl⟩

/-- Settles O44: `acceptProductId_eq` and `extractProductId_of_invalid`; the rule's example is two valid words. -/
theorem pidExtractFollowsItsRule : Obligations.PidExtractFollowsItsRule := by
  refine ⟨decode_encode (i := .pidExtract) rfl, exec_pidExtract_eq, fun expid s h0 h1 => ?accepted,
    fun expid s hinvalid => ⟨s.failMask 2, s.failMask_bit 2, State.failMask_two_ne_zero hinvalid,
      extractProductId_of_invalid expid hinvalid⟩,
    fun s v hop hne => issue_of_opcode_of_ne hop (by decide) hne s, fun s hbytes => ?identified⟩
  case accepted =>
    rw [extractProductId_of_valid expid h0 h1, acceptProductId_eq, s.payload_eq, s.payload_eq]
    rfl
  case identified =>
    obtain ⟨-, -, hcrc0, hcrc1⟩ := crc8_examplePayloads
    obtain ⟨hvalid0, hpayload0⟩ := State.valid_and_payload_of_getElem? hbytes (k := 0) (by decide) rfl rfl rfl hcrc0
    obtain ⟨hvalid1, hpayload1⟩ := State.valid_and_payload_of_getElem? hbytes (k := 1) (by decide) rfl rfl rfl hcrc1
    have hid : s.assembledId = 0x0901018A#32 := by
      rw [s.assembledId_eq_payloads, hpayload0, hpayload1]
      rfl
    rw [extractProductId_of_valid _ hvalid0 hvalid1, acceptProductId_eq]
    exact ⟨hid, if_pos hid⟩

/-- Settles O46. -/
theorem productIdByteSignificance : Obligations.ProductIdByteSignificance := by
  intro s h0 h1
  obtain ⟨hb0, hb1, hb3, hb4⟩ := s.assembledId_bytes
  rw [exec_pidExtract_eq, extractProductId_of_valid _ h0 h1]
  exact ⟨_, rfl, hb0, hb1, hb3, hb4, s.assembledId_eq_payloads⟩

/-- Settles O47: the sentinel is written with ChecksumError, the assembled ID with OK. -/
theorem genuineZeroIdDiffersFromTheSentinel : Obligations.GenuineZeroIdDiffersFromTheSentinel := by
  refine ⟨fun s hinvalid => ?sentinel, fun s h0 h1 hp0 hp1 => ?genuine⟩
  case sentinel =>
    rw [exec_pidExtract_eq, extractProductId_of_invalid _ hinvalid, ← statusChecksumError_eq]
    exact ⟨_, rfl, rfl, (fields_statusWord _ _ _ _ _).1⟩
  case genuine =>
    have hid : s.assembledId = 0x00000000#32 := by
      rw [s.assembledId_eq_payloads, hp0, hp1]
      rfl
    rw [exec_pidExtract_eq, extractProductId_of_valid _ h0 h1]
    exact ⟨_, rfl, hid, statusOk_identified _⟩

/-- Settles O57: each conversion is affine and rises with the raw word, so its end points bound it. -/
theorem conversionsAreExactRationals : Obligations.ConversionsAreExactRationals := by
  obtain ⟨htlow, hthigh⟩ := temperature_endPoints
  obtain ⟨hhlow, hhhigh⟩ := humidity_endPoints
  refine ⟨fun raw => ⟨affine_mul 175 45 _, ?_, ?_⟩, fun raw => ⟨affine_mul 125 6 _, ?_, ?_⟩,
    htlow, hthigh, hthigh.trans (by norm_num), hhlow, hhhigh, hhhigh.trans (by norm_num)⟩
  · exact htlow.symm.trans_le (temperature_mono (Nat.zero_le _))
  · exact (temperature_mono (payload_toNat_le raw)).trans_eq hthigh
  · exact hhlow.symm.trans_le (humidity_mono (Nat.zero_le _))
  · exact (humidity_mono (payload_toNat_le raw)).trans_eq hhhigh

end Sys2Proof.Machine
end

section
/-! PROOFS. Family 43_control.md. First the layer of facts: no legal operation but NOP leaves ILLEGAL set; then the
statement. -/

namespace Sys2Proof.Machine

/-! ### The bit every legal operation but NOP clears (R29) -/

/-- A legal operation other than NOP goes on with ILLEGAL clear, whatever STATUS held before. -/
theorem exec_statusIllegal_eq_false {i : Instr} (hw : i.wellFormed = true) (hn : i ≠ .nop) (s : State) :
    ∃ t, exec i s = .next t ∧ statusIllegal t.status = false := by
  have hdecode : decode (encode i) = .ok i := decode_encode hw
  obtain ⟨t, ht, -, -, -, hillegal, -⟩ := statusFieldsFollowTheirRules (encode i) s (by simpa [hdecode] using hn)
  refine ⟨t, (issue_encode hw s).symm.trans ht, Bool.eq_false_iff.2 fun hset => ?_⟩
  exact hillegal.1 hset i hdecode

/-- Where ILLEGAL is set, a legal operation other than NOP changes STATUS. -/
theorem exec_status_ne_of_statusIllegal {i : Instr} (hw : i.wellFormed = true) (hn : i ≠ .nop) {s : State}
    (hset : statusIllegal s.status = true) : ∃ t, exec i s = .next t ∧ t.status ≠ s.status := by
  obtain ⟨t, ht, hclear⟩ := exec_statusIllegal_eq_false hw hn s
  refine ⟨t, ht, fun heq => ?_⟩
  simp [heq, hset] at hclear

/-! ### The statement -/

/-- Settles O48: the word of NOP is 0, so issuing it is `exec .nop`, the identity; where ILLEGAL is set, any other legal
operation clears it. -/
theorem nopFollowsItsRule : Obligations.NopFollowsItsRule := by
  have hissue (s : State) : issue 0x00000000#32 s = .next s := issue_encode (i := .nop) rfl s
  refine ⟨decode_encode (i := .nop) rfl, fun _ => rfl, hissue, fun i hw hn => ?changes,
    fun s v hop hne => issue_of_opcode_of_ne hop (by decide) hne s, fun s hstatus => ⟨s, hissue s, hstatus⟩⟩
  case changes =>
    exact ⟨State.reset.setStatus statusIllegalOperation, exec_status_ne_of_statusIllegal hw hn (by decide)⟩

end Sys2Proof.Machine
end

section
/-! PROOFS. Family 70_reset_and_hazards.md. First the layer of facts: a legal check looks at some word, and a check that finds
none of its words valid shows all of them in WFAIL; then the statement. -/

namespace Sys2Proof.Machine

/-- No legal check has an empty set of words to check. -/
theorem exists_checksWord {i : Instr} (hc : isChecking i = true) (hw : i.wellFormed = true) :
    ∃ k, checksWord i k = true := by
  cases i with
  | nop | crcCalc | crcAcc | dwEncode => cases hc
  | dwCheck k => exact ⟨⟨k.toNat, of_decide_eq_true hw⟩, decide_eq_true rfl⟩
  | frameCheck n =>
    obtain ⟨hlo, hhi⟩ : 1 ≤ n.toNat ∧ n.toNat ≤ 4 := by simpa [Instr.wellFormed] using hw
    have hfirst : 0 < n.toNat := hlo
    exact ⟨0, by simp [checksWord, hfirst, hhi]⟩
  | measExtract | pidExtract => exact ⟨0, rfl⟩

/-- Where no word is valid, the check mask of an operation is the set of words it checks. -/
theorem State.checkMask_bit_of_invalid {s : State} (h : ∀ k, s.valid k = false) (i : Instr) (k : WordIndex) :
    (s.checkMask i).getLsbD k.val = checksWord i k := by
  rw [State.checkMask_bit, h, Bool.not_false, Bool.and_true]

/-- Where no word is valid, a legal check raises ChecksumError with the WFAIL bit of every checked word (R122). -/
theorem exec_checking_status_of_invalid {i : Instr} (hc : isChecking i = true) (hw : i.wellFormed = true) {s : State}
    (h : ∀ k, s.valid k = false) :
    ∃ t, exec i s = .next t ∧ t.status = statusChecksumError (s.checkMask i) := by
  obtain ⟨t, hexec, hstatus⟩ := exec_checking_status hc hw s
  obtain ⟨k, hk⟩ := exists_checksWord hc hw
  have hfail : s.checkMask i ≠ 0x0#4 := fun hzero =>
    Bool.false_ne_true ((h k).symm.trans ((s.checkMask_eq_zero i).1 hzero k hk))
  exact ⟨t, hexec, hstatus.trans (if_neg hfail)⟩

/-! ### The statement -/

/-- Settles O56: a word of zeros is invalid (O38), so every legal check of the reset buffer fails on each word it looks
at. -/
theorem resetBufferFailsEveryCheck : Obligations.ResetBufferFailsEveryCheck := by
  obtain ⟨hcrc, -, -, -⟩ := crc8_examplePayloads
  obtain ⟨-, -, -, -, hzeros, -⟩ := dwCheckFollowsItsRule
  refine ⟨State.reset_byte, hcrc, fun i s hc hw hbytes => ?_⟩
  have hinvalid (k : WordIndex) : s.valid k = false := hzeros s k fun j => (hbytes j).trans (State.reset_byte j)
  obtain ⟨t, hexec, hstatus⟩ := exec_checking_status_of_invalid hc hw hinvalid
  obtain ⟨hok, hcrcErr, -, -, hwfail⟩ := fields_statusWord false true false false (s.checkMask i)
  rw [statusChecksumError] at hstatus
  refine ⟨t, hexec, hstatus ▸ hok, hstatus ▸ hcrcErr, fun k => ?_⟩
  rw [hstatus, hwfail, State.checkMask_bit_of_invalid hinvalid]

end Sys2Proof.Machine
end

section
/-! PROOFS. Family "other": statements about every operation, every host access and every run. First the layer of facts, in
the order of the definitions it speaks of: the canonical buffer, the linear checksum, the encoder, what each operation can do,
the register map, what one input can do, the buffer replayed, and the host's duty to load; then the statements. -/

namespace Sys2Proof.Machine

/-! ### The canonical buffer (log entry 7) -/

theorem Memory.readCell_of_mem {m : Memory} (hm : m.Pairwise (fun c d => c.1 < d.1)) {c : Host.Cell} (hc : c ∈ m) :
    m.readCell c.1 = c.2 := by
  induction m with
  | nil => cases hc
  | cons d rest ih =>
    obtain ⟨hlt, hrest⟩ := List.pairwise_cons.1 hm
    rcases List.mem_cons.1 hc with rfl | hc
    · exact if_pos rfl
    · exact (if_neg (hlt c hc).ne).trans (ih hrest hc)

/-- An index that reads as something else than an unlisted one has a cell. -/
theorem Memory.mem_of_readCell_ne {m : Memory} {a : Nat} (h : m.readCell a ≠ Memory.unlisted) :
    (a, m.readCell a) ∈ m := by
  induction m with
  | nil => exact absurd rfl h
  | cons d rest ih =>
    rw [Memory.readCell] at h ⊢
    split at h
    case isTrue heq => simp [← heq]
    case isFalse hne =>
      rw [if_neg hne]
      exact List.mem_cons_of_mem _ (ih h)

/-- The cells of a canonical buffer are what it reads as, where that is not what an unlisted index reads as. -/
theorem Memory.mem_iff_of_wf {m : Memory} (hm : m.wf = true) (c : Host.Cell) :
    c ∈ m ↔ ∃ i : BufIndex, c = (i.val, m.read i) ∧ m.read i ≠ Memory.unlisted := by
  obtain ⟨hsorted, hcells⟩ := m.wf_iff.1 hm
  constructor
  · intro hc
    obtain ⟨hlt, hne⟩ := hcells c hc
    have hread : m.read ⟨c.1, hlt⟩ = c.2 := Memory.readCell_of_mem hsorted hc
    exact ⟨⟨c.1, hlt⟩, by rw [hread], hread ▸ hne⟩
  · rintro ⟨i, rfl, hne⟩
    exact Memory.mem_of_readCell_ne hne

theorem Memory.eq_of_wf_of_read_eq {m m' : Memory} (hm : m.wf = true) (hm' : m'.wf = true)
    (h : ∀ i, m.read i = m'.read i) : m = m' := by
  have hmem (c : Host.Cell) : c ∈ m ↔ c ∈ m' := by simp only [Memory.mem_iff_of_wf hm, Memory.mem_iff_of_wf hm', h]
  have hnodup {l : Memory} (hl : l.wf = true) : l.Nodup :=
    (l.wf_iff.1 hl).1.imp fun hlt heq => hlt.ne (congrArg Prod.fst heq)
  exact ((List.perm_ext_iff_of_nodup (hnodup hm) (hnodup hm')).2 hmem).eq_of_pairwise
    (fun _ _ _ _ hlt hgt => absurd hgt hlt.asymm) (m.wf_iff.1 hm).1 (m'.wf_iff.1 hm').1

/-! ### The checksum loop is linear (R76, R80) -/

theorem crcShifts_xor (n : Nat) (a b : Byte) : crcShifts n (a ^^^ b) = crcShifts n a ^^^ crcShifts n b := by
  induction n generalizing a b with
  | zero => rfl
  | succ n ih => rw [crcShifts, crcShift_xor, ih]; rfl

theorem crcByte_xor (c₁ c₂ b₁ b₂ : Byte) :
    crcByte (c₁ ^^^ c₂) (b₁ ^^^ b₂) = crcByte c₁ b₁ ^^^ crcByte c₂ b₂ := by
  have hpair : (c₁ ^^^ c₂) ^^^ (b₁ ^^^ b₂) = (c₁ ^^^ b₁) ^^^ (c₂ ^^^ b₂) := by ac_rfl
  rw [crcByte, hpair, crcShifts_xor]
  rfl

theorem crc8From_xor {b₁ b₂ : List Byte} (h : b₁.length = b₂.length) (c₁ c₂ : Byte) :
    crc8From (c₁ ^^^ c₂) (List.zipWith (· ^^^ ·) b₁ b₂) = crc8From c₁ b₁ ^^^ crc8From c₂ b₂ := by
  induction b₁ generalizing b₂ c₁ c₂ with
  | nil =>
    obtain rfl := List.eq_nil_of_length_eq_zero h.symm
    rfl
  | cons x xs ih =>
    cases b₂ with
    | nil => cases h
    | cons y ys =>
      rw [List.zipWith_cons_cons, crc8From, crcByte_xor, ih (Nat.succ.inj h)]
      rfl

/-! ### The encoder (R66, R74) -/

theorem encode_eq_ofNat (i : Instr) :
    encode i = BitVec.ofNat 32 (16 * (operandOf i).toNat + (opcodeOf i).toNat) := by
  rw [← encode_toNat, BitVec.ofNat_toNat, BitVec.setWidth_eq]

/-- The assembler on an operation whose legal operands are those that satisfy `p`. -/
theorem assemble_eq_ite {i : Instr} {p : Prop} [Decidable p] (h : i.wellFormed = true ↔ p) :
    assemble i =
      if p then some (BitVec.ofNat 32 (16 * (operandOf i).toNat + (opcodeOf i).toNat)) else none := by
  rw [assemble, encode_eq_ofNat]
  exact if_congr h rfl rfl

/-- What the assembler emits is a legal value of its operation. -/
theorem decode_of_assemble {i : Instr} {w : Word} (h : assemble i = some w) : decode w = .ok i := by
  unfold assemble at h
  split at h
  case isTrue hw =>
    cases h
    exact decode_encode hw
  case isFalse => cases h

/-! ### What an operation can do

`exec` on each operation, legal or not, is one of seven effects: that is `exec_eq_next_iff`, which the statements about every
operation cite. A check's two effects are written once for all four checking operations. -/

/-- The state an accepted check leaves (R91, R96, R102, R104): the payloads of the words it checks, and what the two
extractors write besides. -/
def State.accepted (s : State) (i : Instr) : State :=
  { s with
    status := statusIdentified (s.matchesId i)
    word := Vector.ofFn fun k => if checksWord i k then s.payload k else s.word[k]
    co2 := if i = .measExtract then s.payload 0 else s.co2
    traw := if i = .measExtract then s.payload 1 else s.traw
    hraw := if i = .measExtract then s.payload 2 else s.hraw
    mstat := if i = .measExtract then s.payload 3 else s.mstat
    pid := if i = .pidExtract then s.assembledId else s.pid }

/-- The state a rejected check leaves (R122): STATUS, and the sentinel of PID_EXTRACT (R106). -/
def State.rejected (s : State) (i : Instr) : State :=
  { s with
    status := statusChecksumError (s.checkMask i)
    pid := if i = .pidExtract then 0x00000000#32 else s.pid }

/-- What the spec lets operation `i` leave of state `s`. -/
inductive Effect (s : State) : Instr → State → Prop where
  /-- An illegal operand: IllegalOperation (R68). -/
  | illegal {i : Instr} (hw : i.wellFormed = false) : Effect s i (s.setStatus statusIllegalOperation)
  /-- R117. -/
  | nop : Effect s .nop s
  /-- R78. -/
  | crcCalc {n : Nibble} (hn : n.toNat ≤ 12) :
    Effect s (.crcCalc n) ((s.setCrc (crc8 (s.bytes n.toNat))).setStatus statusDone)
  /-- R81. -/
  | crcAcc {n : Nibble} (hn : n.toNat ≤ 12) :
    Effect s (.crcAcc n) ((s.setCrc (crc8From s.crc (s.bytes n.toNat))).setStatus statusDone)
  /-- R84. -/
  | dwEncode (k : WordIndex) : Effect s (.dwEncode (BitVec.ofNat 4 k.val)) (s.encodeWord k)
  /-- A check of valid words. -/
  | accepted {i : Instr} (hc : isChecking i = true) (hw : i.wellFormed = true) (hmask : s.checkMask i = 0x0#4) :
    Effect s i (s.accepted i)
  /-- A check that finds an invalid word. -/
  | rejected {i : Instr} (hc : isChecking i = true) (hw : i.wellFormed = true) (hmask : s.checkMask i ≠ 0x0#4) :
    Effect s i (s.rejected i)

theorem exec_of_illFormed {i : Instr} (h : i.wellFormed = false) (s : State) :
    exec i s = .next (s.setStatus statusIllegalOperation) := by
  cases i with
  | nop | measExtract | pidExtract => cases h
  | crcCalc n | crcAcc n =>
    have hnone : byteCount n = none := (byteCount_eq_none n).2 (Nat.lt_of_not_le (of_decide_eq_false h))
    simp only [exec, execCrcCalc, execCrcAcc, hnone, withOperand, raiseError, errorStatus]
  | dwEncode k | dwCheck k =>
    have hnone : wordIndex k = none := (wordIndex_eq_none k).2 (Nat.le_of_not_lt (of_decide_eq_false h))
    simp only [exec, execDwEncode, execDwCheck, hnone, withOperand, raiseError, errorStatus]
  | frameCheck n =>
    have hnone : wordCount n = none := by
      simp only [Instr.wellFormed, Bool.and_eq_false_iff, decide_eq_false_iff_not] at h
      exact (wordCount_eq_none n).2 (by omega)
    simp only [exec, execFrameCheck, hnone, withOperand, raiseError, errorStatus]

/-- A single-word write is the write of the words DW_CHECK checks (R91). -/
theorem State.writeWord_eq_ofFn (s : State) {n : Nibble} (h : n.toNat < 4) :
    s.writeWord ⟨n.toNat, h⟩ =
      s.setWords (Vector.ofFn fun k => if checksWord (.dwCheck n) k then s.payload k else s.word[k]) := by
  refine congrArg s.setWords (Vector.ext fun j hj => ?_)
  by_cases heq : j = n.toNat
  · subst heq
    simp [checksWord]
  · simp [checksWord, heq, Ne.symm heq]

/-- A frame write is the write of the words an operation checks, where those are the frame's (R96). -/
theorem State.writeWords_eq_ofFn (s : State) {n : Nat} {i : Instr}
    (h : ∀ k : WordIndex, checksWord i k = decide (k.val < n)) :
    s.writeWords n = s.setWords (Vector.ofFn fun k => if checksWord i k then s.payload k else s.word[k]) := by
  simp only [State.writeWords, h, decide_eq_true_eq]

/-- A legal check accepts or rejects by its mask. -/
theorem exec_checking {i : Instr} (hc : isChecking i = true) (hw : i.wellFormed = true) (s : State) :
    exec i s = .next (if s.checkMask i = 0x0#4 then s.accepted i else s.rejected i) := by
  cases i with
  | nop | crcCalc | crcAcc | dwEncode => cases hc
  | dwCheck n =>
    rw [exec_dwCheck_of_lt (of_decide_eq_true hw), s.writeWord_eq_ofFn]
    rfl
  | frameCheck n =>
    obtain ⟨hlo, hhi⟩ : 1 ≤ n.toNat ∧ n.toNat ≤ 4 := by simpa [Instr.wellFormed] using hw
    rw [exec_frameCheck_of_le hlo hhi, s.writeWords_eq_ofFn (i := .frameCheck n) fun k => by simp [checksWord, hhi]]
    rfl
  | measExtract =>
    rw [exec_measExtract]
    rfl
  | pidExtract =>
    rw [exec_pidExtract, acceptProductId, s.writeWords_eq_ofFn (i := .pidExtract) fun _ => rfl]
    rfl

theorem Effect.exec_eq {s t : State} {i : Instr} (h : Effect s i t) : exec i s = .next t := by
  cases h with
  | illegal hw => exact exec_of_illFormed hw s
  | nop => rfl
  | crcCalc hn => exact exec_crcCalc_of_le hn s
  | crcAcc hn => exact exec_crcAcc_of_le hn s
  | dwEncode k => exact exec_dwEncode k s
  | accepted hc hw hmask => rw [exec_checking hc hw, if_pos hmask]
  | rejected hc hw hmask => rw [exec_checking hc hw, if_neg hmask]

/-- A legal word operand is the number of a word. -/
theorem exists_eq_ofNat_wordIndex {n : Nibble} (h : n.toNat < 4) : ∃ k : WordIndex, n = BitVec.ofNat 4 k.val :=
  ⟨⟨n.toNat, h⟩, by rw [BitVec.ofNat_toNat, BitVec.setWidth_eq]⟩

theorem exists_effect (s : State) (i : Instr) : ∃ t, Effect s i t := by
  cases hw : i.wellFormed with
  | false => exact ⟨_, .illegal hw⟩
  | true =>
    cases hc : isChecking i with
    | true =>
      by_cases hmask : s.checkMask i = 0x0#4
      · exact ⟨_, .accepted hc hw hmask⟩
      · exact ⟨_, .rejected hc hw hmask⟩
    | false =>
      cases i with
      | dwCheck | frameCheck | measExtract | pidExtract => cases hc
      | nop => exact ⟨_, .nop⟩
      | crcCalc n => exact ⟨_, .crcCalc (of_decide_eq_true hw)⟩
      | crcAcc n => exact ⟨_, .crcAcc (of_decide_eq_true hw)⟩
      | dwEncode n =>
        obtain ⟨k, rfl⟩ := exists_eq_ofNat_wordIndex (of_decide_eq_true hw)
        exact ⟨_, .dwEncode k⟩

theorem exec_eq_next_iff {i : Instr} {s t : State} : exec i s = .next t ↔ Effect s i t := by
  refine ⟨fun h => ?_, Effect.exec_eq⟩
  obtain ⟨u, hu⟩ := exists_effect s i
  cases hu.exec_eq.symm.trans h
  exact hu

/-! ### What no operation depends on: the host's lists, and CRC and the old STATUS but for two operations

Each effect is a function of the fields it reads, so replacing another field beforehand or afterwards is the same. -/

theorem Effect.setPending {s t : State} {i : Instr} (h : Effect s i t) (p : List HostInput) :
    Effect (s.setPending p) i (t.setPending p) := by
  cases h with
  | illegal hw => exact .illegal hw
  | nop => exact .nop
  | crcCalc hn => exact .crcCalc hn
  | crcAcc hn => exact .crcAcc hn
  | dwEncode k => exact .dwEncode k
  | accepted hc hw hmask => exact .accepted (s := s.setPending p) hc hw hmask
  | rejected hc hw hmask => exact .rejected (s := s.setPending p) hc hw hmask

theorem Effect.setCrc {s t : State} {i : Instr} (h : Effect s i t) (hcrc : ∀ n, i ≠ .crcCalc n ∧ i ≠ .crcAcc n)
    (c : Byte) : Effect (s.setCrc c) i (t.setCrc c) := by
  cases h with
  | illegal hw => exact .illegal hw
  | nop => exact .nop
  | crcCalc hn => exact absurd rfl (hcrc _).1
  | crcAcc hn => exact absurd rfl (hcrc _).2
  | dwEncode k => exact .dwEncode k
  | accepted hc hw hmask => exact .accepted (s := s.setCrc c) hc hw hmask
  | rejected hc hw hmask => exact .rejected (s := s.setCrc c) hc hw hmask

/-- Every operation but NOP writes the whole of STATUS (R25). -/
theorem Effect.setStatus {s t : State} {i : Instr} (h : Effect s i t) (hnop : i ≠ .nop) (v : Word) :
    Effect (s.setStatus v) i t := by
  cases h with
  | illegal hw => exact .illegal (s := s.setStatus v) hw
  | nop => exact absurd rfl hnop
  | crcCalc hn => exact .crcCalc (s := s.setStatus v) hn
  | crcAcc hn => exact .crcAcc (s := s.setStatus v) hn
  | dwEncode k => exact .dwEncode (s := s.setStatus v) k
  | accepted hc hw hmask => exact .accepted (s := s.setStatus v) hc hw hmask
  | rejected hc hw hmask => exact .rejected (s := s.setStatus v) hc hw hmask

/-! ### What every operation leaves (R43) -/

theorem Effect.sameHost {s t : State} {i : Instr} (h : Effect s i t) : t.sameHost s := by
  cases h <;> exact ⟨rfl, rfl⟩

theorem Effect.crc_eq {s t : State} {i : Instr} (h : Effect s i t) (hcrc : ∀ n, i ≠ .crcCalc n ∧ i ≠ .crcAcc n) :
    t.crc = s.crc := by
  cases h with
  | crcCalc hn => exact absurd rfl (hcrc _).1
  | crcAcc hn => exact absurd rfl (hcrc _).2
  | illegal | nop | dwEncode | accepted | rejected => rfl

/-- DW_ENCODE alone writes the buffer. -/
theorem Effect.buf_eq {s t : State} {i : Instr} (h : Effect s i t)
    (hencode : ∀ k : WordIndex, i ≠ .dwEncode (BitVec.ofNat 4 k.val)) : t.buf = s.buf := by
  cases h with
  | dwEncode k => exact absurd rfl (hencode k)
  | illegal | nop | crcCalc | crcAcc | accepted | rejected => rfl

theorem Effect.byte_eq {s t : State} {i : Instr} (h : Effect s i t) {j : BufIndex}
    (hj : ∀ k : WordIndex, i = .dwEncode (BitVec.ofNat 4 k.val) → j ≠ checkIndex k) : t.byte j = s.byte j := by
  cases h with
  | dwEncode k => exact s.encodeWord_byte_other k (hj k rfl)
  | illegal | nop | crcCalc | crcAcc | accepted | rejected => rfl

theorem State.accepted_word (s : State) (i : Instr) (k : WordIndex) :
    (s.accepted i).word[k] = if checksWord i k then s.payload k else s.word[k] := by
  simp [State.accepted]

theorem Effect.word_eq {s t : State} {i : Instr} (h : Effect s i t) {k : WordIndex} (hk : checksWord i k = false) :
    t.word[k] = s.word[k] := by
  cases h with
  | accepted => rw [State.accepted_word, hk, if_neg Bool.false_ne_true]
  | illegal | nop | crcCalc | crcAcc | dwEncode | rejected => rfl

theorem Effect.measurement_eq {s t : State} {i : Instr} (h : Effect s i t) (hi : i ≠ .measExtract) :
    t.co2 = s.co2 ∧ t.traw = s.traw ∧ t.hraw = s.hraw ∧ t.mstat = s.mstat := by
  cases h with
  | accepted => exact ⟨if_neg hi, if_neg hi, if_neg hi, if_neg hi⟩
  | illegal | nop | crcCalc | crcAcc | dwEncode | rejected => exact ⟨rfl, rfl, rfl, rfl⟩

theorem Effect.pid_eq {s t : State} {i : Instr} (h : Effect s i t) (hi : i ≠ .pidExtract) : t.pid = s.pid := by
  cases h with
  | accepted | rejected => exact if_neg hi
  | illegal | nop | crcCalc | crcAcc | dwEncode => rfl

/-! ### States with the same results -/

/-- Two states hold the same in every register but CRC and the buffer. -/
structure State.SameResults (s u : State) : Prop where
  status : u.status = s.status
  word : u.word = s.word
  co2 : u.co2 = s.co2
  traw : u.traw = s.traw
  hraw : u.hraw = s.hraw
  mstat : u.mstat = s.mstat
  pid : u.pid = s.pid

theorem State.SameResults.setStatus {s u : State} (h : s.SameResults u) (v : Word) :
    (s.setStatus v).SameResults (u.setStatus v) := { h with status := rfl }

theorem State.SameResults.setCrc {s u : State} (h : s.SameResults u) (c d : Byte) :
    (s.setCrc c).SameResults (u.setCrc d) := { h with }

theorem State.SameResults.setByte {s u : State} (h : s.SameResults u) (i : BufIndex) (c d : Byte) :
    (s.setByte i c).SameResults (u.setByte i d) := { h with }

/-- What is left to compare of two such states is CRC, the host's lists and the buffer. -/
theorem State.SameResults.withBuf_eq {s u : State} (h : s.SameResults u) (hcrc : u.crc = s.crc)
    (hpending : u.pending = s.pending) (hreads : u.reads = s.reads) : { u with buf := s.buf } = s := by
  obtain ⟨hstatus, hword, hco2, htraw, hhraw, hmstat, hpid⟩ := h
  rw [hstatus, hword, hco2, htraw, hhraw, hmstat, hpid, hcrc, hpending, hreads]

/-! ### Issuing an operation a second time (R54) -/

/-- The second acceptance finds the same words and writes the same registers. -/
theorem State.accepted_idem (s : State) (i : Instr) : (s.accepted i).accepted i = s.accepted i := by
  have hagain {α : Type} {p : Prop} [Decidable p] (a b : α) :
      (if p then a else if p then a else b) = if p then a else b :=
    ite_congr rfl (fun _ => rfl) fun hp => if_neg hp
  have hword (k : WordIndex) : (if checksWord i k then (s.accepted i).payload k else (s.accepted i).word[k]) =
      if checksWord i k then s.payload k else s.word[k] :=
    ite_congr rfl (fun _ => rfl) fun hk => (s.accepted_word i k).trans (if_neg hk)
  have hsame : (s.accepted i).SameResults ((s.accepted i).accepted i) :=
    ⟨rfl, congrArg Vector.ofFn (funext hword), hagain _ _, hagain _ _, hagain _ _, hagain _ _, hagain _ _⟩
  exact hsame.withBuf_eq rfl rfl rfl

theorem State.rejected_idem (s : State) (i : Instr) : (s.rejected i).rejected i = s.rejected i := by
  have hsame : (s.rejected i).SameResults ((s.rejected i).rejected i) :=
    ⟨rfl, rfl, rfl, rfl, rfl, rfl, ite_congr rfl (fun _ => rfl) fun hi => if_neg hi⟩
  exact hsame.withBuf_eq rfl rfl rfl

theorem Effect.again {s t : State} {i : Instr} (h : Effect s i t) (hacc : ∀ n, i ≠ .crcAcc n) : Effect t i t := by
  cases h with
  | illegal hw => exact .illegal (s := s.setStatus statusIllegalOperation) hw
  | nop => exact .nop
  | @crcCalc n hn => exact .crcCalc (s := (s.setCrc (crc8 (s.bytes n.toNat))).setStatus statusDone) hn
  | crcAcc hn => exact absurd rfl (hacc _)
  | dwEncode k =>
    have hagain := Effect.dwEncode (s := s.encodeWord k) k
    rwa [s.encodeWord_idem] at hagain
  | accepted hc hw hmask =>
    have hagain := Effect.accepted (s := s.accepted i) hc hw hmask
    rwa [s.accepted_idem] at hagain
  | rejected hc hw hmask =>
    have hagain := Effect.rejected (s := s.rejected i) hc hw hmask
    rwa [s.rejected_idem] at hagain

/-! ### The invariant of an operation (R125) -/

theorem legalStatus_statusIdentified (idMatch : Bool) : legalStatus (statusIdentified idMatch) := by
  cases idMatch with
  | false => exact .inr (.inl rfl)
  | true => exact .inr (.inr (.inl rfl))

theorem statusChecksumError_eq_or (mask : Nibble) : statusChecksumError mask = 0x00000002#32 ||| (zext 32 mask <<< 4) := by
  revert mask; decide

theorem legalStatus_statusChecksumError {mask : Nibble} (h : mask ≠ 0x0#4) : legalStatus (statusChecksumError mask) :=
  .inr (.inr (.inr (.inr ⟨mask, h, statusChecksumError_eq_or mask⟩)))

theorem legalStatus_statusIllegalOperation : legalStatus statusIllegalOperation := .inr (.inr (.inr (.inl rfl)))

theorem Effect.legalStatus {s t : State} {i : Instr} (h : Effect s i t) (hs : legalStatus s.status) :
    legalStatus t.status := by
  cases h with
  | illegal => exact legalStatus_statusIllegalOperation
  | nop => exact hs
  | crcCalc | crcAcc | dwEncode => exact .inl rfl
  | accepted => exact legalStatus_statusIdentified _
  | rejected _ _ hmask => exact legalStatus_statusChecksumError hmask

theorem Effect.buf_wf {s t : State} {i : Instr} (h : Effect s i t) (hs : s.buf.wf = true) : t.buf.wf = true := by
  cases h with
  | dwEncode k => exact Memory.write_wf _ _ _ hs
  | illegal | nop | crcCalc | crcAcc | accepted | rejected => exact hs

/-! ### A check of an invalid word (R91, R96, R102, R104, R122) -/

/-- An ill-formed check looks at no word. -/
theorem wellFormed_of_checksWord {i : Instr} {k : WordIndex} (h : checksWord i k = true) : i.wellFormed = true := by
  cases i with
  | nop | crcCalc | crcAcc | dwEncode => cases h
  | dwCheck n =>
    have hk : k.val = n.toNat := of_decide_eq_true h
    exact decide_eq_true (hk ▸ k.isLt)
  | frameCheck n =>
    obtain ⟨hhi, hk⟩ : n.toNat ≤ 4 ∧ k.val < n.toNat := by simpa [checksWord] using h
    exact wellFormed_frameCheck (by omega) hhi
  | measExtract | pidExtract => rfl

theorem isChecking_of_checksWord {i : Instr} {k : WordIndex} (h : checksWord i k = true) : isChecking i = true := by
  by_contra hc
  rw [checksWord_eq_false (Bool.eq_false_iff.2 hc)] at h
  exact Bool.false_ne_true h

theorem exec_of_invalid {i : Instr} {k : WordIndex} {s : State} (hk : checksWord i k = true) (h : s.valid k = false) :
    exec i s = .next (s.rejected i) := by
  refine (Effect.rejected (isChecking_of_checksWord hk) (wellFormed_of_checksWord hk) fun hzero => ?_).exec_eq
  exact Bool.false_ne_true (h.symm.trans ((s.checkMask_eq_zero i).1 hzero k hk))

theorem State.rejected_flags (s : State) (i : Instr) :
    statusOk (s.rejected i).status = false ∧ statusCrcErr (s.rejected i).status = true :=
  have hfields := fields_statusWord false true false false (s.checkMask i)
  ⟨hfields.1, hfields.2.1⟩

theorem State.rejected_wfail (s : State) (i : Instr) (k : WordIndex) :
    (statusWfail (s.rejected i).status).getLsbD k.val = (checksWord i k && !s.valid k) := by
  obtain ⟨-, -, -, -, hwfail⟩ := fields_statusWord false true false false (s.checkMask i)
  exact (congrArg (BitVec.getLsbD · k.val) hwfail).trans (s.checkMask_bit i k)

/-! ### The register map (R22) -/

theorem slotOf_of_regAt {a : Slot} {r : Reg} (h : regAt a = some r) : slotOf r = a := by
  have hnum {n : Nat} (hn : n = a.toNat) : BitVec.ofNat 5 n = a := by rw [hn, BitVec.ofNat_toNat, BitVec.setWidth_eq]
  unfold regAt at h
  split at h
  case isTrue hb =>
    cases h
    exact hnum (Nat.add_sub_of_le hb.1)
  case isFalse =>
    split at h
    case isTrue hw =>
      cases h
      exact hnum (Nat.add_sub_of_le hw.1)
    case isFalse =>
      split at h
      case h_10 => cases h
      all_goals
        cases h
        exact hnum (Eq.symm ‹_›)

theorem regAt_eq_none_iff (a : Slot) : regAt a = none ↔ 0x19 ≤ a.toNat := by
  revert a; decide

theorem slotOf_injective : Function.Injective slotOf := fun r r' h =>
  Option.some.inj (by rw [← regAt_slotOf r, h, regAt_slotOf])

theorem readValue_of_reserved {a : Slot} (h : 0x19 ≤ a.toNat) (s : State) : readValue s a = 0x00000000#32 := by
  simp only [readValue, (regAt_eq_none_iff a).2 h]

/-- A slot that takes no write: neither CTRL's nor a buffer byte's (R40). -/
def ignoresWrites (a : Slot) : Prop := ∀ r : Reg, slotOf r = a → r ≠ .ctrl ∧ ∀ i, r ≠ .b i

theorem writeSlot_of_ignoresWrites {a : Slot} (h : ignoresWrites a) (v : Word) (s : State) :
    writeSlot a v s = .next s := by
  cases hr : regAt a with
  | none => simp only [writeSlot, hr]
  | some r =>
    obtain ⟨hctrl, hb⟩ := h r (slotOf_of_regAt hr)
    simp only [writeSlot, hr]
    cases r with
    | ctrl => exact absurd rfl hctrl
    | b i => exact absurd rfl (hb i)
    | status | crc | expid | word | co2 | traw | hraw | mstat | pid => rfl

theorem slotOf_b_toNat (i : BufIndex) : (slotOf (.b i)).toNat = 0x04 + i.val :=
  Nat.mod_eq_of_lt (by omega)

/-- The slots outside 0x00 and 0x04 to 0x0F take no write (R40). -/
theorem ignoresWrites_of_toNat {a : Slot} (h : 0x01 ≤ a.toNat ∧ a.toNat ≤ 0x03 ∨ 0x10 ≤ a.toNat) :
    ignoresWrites a := by
  rintro r rfl
  constructor
  · rintro rfl
    simp [slotOf] at h
  · rintro i rfl
    rw [slotOf_b_toNat] at h
    omega

/-! ### What one input can do

`serve` on each input is one of seven effects: that is `serve_eq_next_iff`. -/

/-- What the spec lets an input leave of state `s` (R39, R40, R54, R64, R136). -/
inductive Served (s : State) : HostInput → State → Prop where
  /-- A legal CTRL value runs its operation (R64). -/
  | operation {v : Word} {i : Instr} {t : State} (hv : decode v = .ok i) (ht : Effect s i t) :
    Served s (.write (slotOf .ctrl) v) t
  /-- R123. -/
  | illegalValue {v : Word} {e : DecodeError} (hv : decode v = .error e) :
    Served s (.write (slotOf .ctrl) v) (s.setStatus statusIllegalOperation)
  /-- R50. -/
  | byte (i : BufIndex) (v : Word) : Served s (.write (slotOf (.b i)) v) (s.setByte i (field v 0 8))
  /-- R40. -/
  | ignored {a : Slot} (v : Word) (ha : ignoresWrites a) : Served s (.write a v) s
  /-- R54. -/
  | read (a : Slot) : Served s (.read a) (s.pushRead (readValue s a))
  /-- R136. -/
  | reset : Served s .reset (resetBlock s)

theorem serve_write_ctrl (v : Word) (s : State) : serve (.write (slotOf .ctrl) v) s = issue v s :=
  writeSlot_slotOf .ctrl v s

theorem Served.serve_eq {s t : State} {x : HostInput} (h : Served s x t) : serve x s = .next t := by
  cases h with
  | operation hv ht => rw [serve_write_ctrl, issue_of_decode_ok hv, ht.exec_eq]
  | illegalValue hv => rw [serve_write_ctrl, issue_of_decode_error hv]
  | byte i v => exact writeSlot_slotOf (.b i) v s
  | ignored v ha => exact writeSlot_of_ignoresWrites ha v s
  | read | reset => rfl

theorem exists_served (s : State) (x : HostInput) : ∃ t, Served s x t := by
  cases x with
  | read a => exact ⟨_, .read a⟩
  | reset => exact ⟨_, .reset⟩
  | write a v =>
    by_cases hctrl : slotOf .ctrl = a
    · subst hctrl
      cases hv : decode v with
      | error e => exact ⟨_, .illegalValue hv⟩
      | ok i =>
        obtain ⟨t, ht⟩ := exists_effect s i
        exact ⟨t, .operation hv ht⟩
    by_cases hb : ∃ i, slotOf (.b i) = a
    · obtain ⟨i, rfl⟩ := hb
      exact ⟨_, .byte i v⟩
    · refine ⟨_, .ignored v fun r hr => ⟨?_, ?_⟩⟩
      · rintro rfl
        exact hctrl hr
      · rintro i rfl
        exact hb ⟨i, hr⟩

theorem serve_eq_next_iff {x : HostInput} {s t : State} : serve x s = .next t ↔ Served s x t := by
  refine ⟨fun h => ?_, Served.serve_eq⟩
  obtain ⟨u, hu⟩ := exists_served s x
  cases hu.serve_eq.symm.trans h
  exact hu

theorem Served.setPending {s t : State} {x : HostInput} (h : Served s x t) (p : List HostInput) :
    Served (s.setPending p) x (t.setPending p) := by
  cases h with
  | operation hv ht => exact .operation hv (ht.setPending p)
  | illegalValue hv => exact .illegalValue (s := s.setPending p) hv
  | byte i v => exact .byte (s := s.setPending p) i v
  | ignored v ha => exact .ignored v ha
  | read a => exact .read (s := s.setPending p) a
  | reset => exact .reset (s := s.setPending p)

theorem Served.inv {s t : State} {x : HostInput} (h : Served s x t) (hs : s.Inv) : t.Inv := by
  obtain ⟨hbuf, hstatus⟩ := hs
  cases h with
  | operation _ ht => exact ⟨ht.buf_wf hbuf, ht.legalStatus hstatus⟩
  | illegalValue => exact ⟨hbuf, legalStatus_statusIllegalOperation⟩
  | byte => exact ⟨Memory.write_wf _ _ _ hbuf, hstatus⟩
  | ignored | read => exact ⟨hbuf, hstatus⟩
  | reset => exact ⟨State.reset_buf_wf, .inl rfl⟩

/-- No input adds one, and a read alone adds a value to those read. -/
theorem Served.host {s t : State} {x : HostInput} (h : Served s x t) :
    t.pending = s.pending ∧ ∃ vs, t.reads = s.reads ++ vs ∧ vs.length = readCount [x] := by
  cases h with
  | operation _ ht =>
    obtain ⟨hpending, hreads⟩ := ht.sameHost
    exact ⟨hpending.symm, [], by rw [← hreads, List.append_nil], rfl⟩
  | illegalValue | byte | ignored | reset => exact ⟨rfl, [], (List.append_nil _).symm, rfl⟩
  | read a => exact ⟨rfl, [readValue s a], rfl, rfl⟩

/-! ### A step and a run (R57) -/

theorem step_of_pending_nil {s : State} (h : s.pending = []) : step s = .next s := by
  simp only [step, serveNext, h]

theorem step_of_pending_cons {s : State} {x : HostInput} {rest : List HostInput} (h : s.pending = x :: rest) :
    step s = serve x (s.setPending rest) := by
  simp only [step, serveNext, h]

/-- A step does nothing, or performs one input. -/
theorem step_cases {s t : State} (h : step s = .next t) :
    s.pending = [] ∧ t = s ∨ ∃ x rest, s.pending = x :: rest ∧ Served (s.setPending rest) x t := by
  cases hp : s.pending with
  | nil => exact .inl ⟨rfl, (Host.Outcome.next.inj ((step_of_pending_nil hp).symm.trans h)).symm⟩
  | cons x rest => exact .inr ⟨x, rest, rfl, serve_eq_next_iff.1 ((step_of_pending_cons hp).symm.trans h)⟩

theorem step_goesOn (s : State) : goesOn s := by
  cases hp : s.pending with
  | nil => exact ⟨s, step_of_pending_nil hp⟩
  | cons x rest =>
    obtain ⟨t, ht⟩ := exists_served (s.setPending rest) x
    exact ⟨t, (step_of_pending_cons hp).trans ht.serve_eq⟩

theorem run_succ {M : Host.Core} {n : Nat} {s t : M.State} (h : M.step s = .next t) : M.run (n + 1) s = M.run n t := by
  simp only [Host.Core.run, h]

/-- The inputs not yet performed are the model's own list and no part of what an input does (log entry 1). -/
theorem run_eq_serveAll (xs : List HostInput) (s : State) :
    core.run xs.length (s.setPending xs) = .next (serveAll xs (s.setPending [])) := by
  induction xs generalizing s with
  | nil => rfl
  | cons x rest ih =>
    obtain ⟨t, ht⟩ := exists_served s x
    have hstep : step (s.setPending (x :: rest)) = .next (t.setPending rest) :=
      (step_of_pending_cons rfl).trans (ht.setPending rest).serve_eq
    calc core.run (x :: rest).length (s.setPending (x :: rest))
        = core.run rest.length (t.setPending rest) := run_succ (M := core) hstep
      _ = .next (serveAll rest (t.setPending [])) := ih t
      _ = .next (serveAll (x :: rest) (s.setPending [])) := by
        rw [serveAll_cons _ _ _ _ (ht.setPending []).serve_eq]

theorem readCount_cons (x : HostInput) (xs : List HostInput) : readCount (x :: xs) = readCount [x] + readCount xs := by
  cases x with
  | read => exact Nat.add_comm _ _
  | write | reset => exact (Nat.zero_add _).symm

theorem serveAll_host (xs : List HostInput) (s : State) :
    (serveAll xs s).pending = s.pending ∧
      ∃ vs, (serveAll xs s).reads = s.reads ++ vs ∧ vs.length = readCount xs := by
  induction xs generalizing s with
  | nil => exact ⟨rfl, [], (List.append_nil _).symm, rfl⟩
  | cons x xs ih =>
    obtain ⟨t, ht⟩ := exists_served s x
    obtain ⟨hpending, vs, hvs, hlen⟩ := ht.host
    obtain ⟨hpendings, ws, hws, hlens⟩ := ih t
    rw [serveAll_cons _ _ _ _ ht.serve_eq, readCount_cons]
    exact ⟨hpendings.trans hpending, vs ++ ws, by rw [hws, hvs, List.append_assoc],
      by rw [List.length_append, hlen, hlens]⟩

/-! ### The buffer, replayed input by input (R50, R57, R84) -/

theorem writesByte_eq_some_iff {a : Slot} {v : Word} {i : BufIndex} :
    writesByte (.write a v) = some i ↔ a = slotOf (.b i) := by
  constructor
  · intro h
    cases hr : regAt a with
    | none => simp [writesByte, hr] at h
    | some r =>
      cases r with
      | b j =>
        obtain rfl : j = i := by simpa [writesByte, hr] using h
        exact (slotOf_of_regAt hr).symm
      | ctrl | status | crc | expid | word | co2 | traw | hraw | mstat | pid => simp [writesByte, hr] at h
  · rintro rfl
    simp [writesByte]

theorem issuesOperation_ctrl (v : Word) : issuesOperation (.write (slotOf .ctrl) v) = (decode v).toOption := by
  rw [issuesOperation, if_pos rfl]

theorem issuesOperation_eq_some_iff {a : Slot} {v : Word} {i : Instr} :
    issuesOperation (.write a v) = some i ↔ a = slotOf .ctrl ∧ decode v = .ok i := by
  by_cases ha : a = slotOf .ctrl
  · subst ha
    rw [issuesOperation_ctrl]
    cases decode v <;> simp [Except.toOption]
  · simp [issuesOperation, ha]

/-- An input that issues DW_ENCODE names a word. -/
theorem exists_wordIndex_of_encode {a : Slot} {v : Word} {n : Nibble}
    (h : issuesOperation (.write a v) = some (.dwEncode n)) : ∃ k : WordIndex, n = BitVec.ofNat 4 k.val :=
  exists_eq_ofNat_wordIndex (of_decide_eq_true (decode_wellFormed (issuesOperation_eq_some_iff.1 h).2))

section
variable {a : Slot} {v : Word} (j : BufIndex)

theorem bytesAfter_of_encode {k : WordIndex}
    (h : issuesOperation (.write a v) = some (.dwEncode (BitVec.ofNat 4 k.val))) (b : BufIndex → Byte) :
    bytesAfter b (.write a v) j = if j = checkIndex k then crc8 [b (hiIndex k), b (loIndex k)] else b j := by
  simp only [bytesAfter, h, wordIndex_ofNat]

theorem bytesAfter_of_not_encode (h : ∀ n, issuesOperation (.write a v) ≠ some (.dwEncode n)) (b : BufIndex → Byte) :
    bytesAfter b (.write a v) j = if writesByte (.write a v) = some j then field v 0 8 else b j := by
  simp only [bytesAfter]

theorem loadedAfter_of_encode {k : WordIndex}
    (h : issuesOperation (.write a v) = some (.dwEncode (BitVec.ofNat 4 k.val))) (loaded : BufIndex → Bool) :
    loadedAfter loaded (.write a v) j =
      if j = checkIndex k then readsLoaded loaded (.dwEncode (BitVec.ofNat 4 k.val)) else loaded j := by
  simp only [loadedAfter, h, toNat_ofNat_wordIndex, Fin.ext_iff, checkIndex]

theorem loadedAfter_of_not_encode (h : ∀ n, issuesOperation (.write a v) ≠ some (.dwEncode n))
    (loaded : BufIndex → Bool) :
    loadedAfter loaded (.write a v) j = (loaded j || writesByte (.write a v) == some j) := by
  simp only [loadedAfter]

end

theorem Effect.eq_encodeWord {s t : State} {k : WordIndex} (h : Effect s (.dwEncode (BitVec.ofNat 4 k.val)) t) :
    t = s.encodeWord k :=
  Host.Outcome.next.inj (h.exec_eq.symm.trans (exec_dwEncode k s))

theorem State.encodeWord_byte (s : State) (k : WordIndex) (j : BufIndex) :
    (s.encodeWord k).byte j = if j = checkIndex k then crc8 [s.byte (hiIndex k), s.byte (loIndex k)] else s.byte j := by
  split
  case isTrue h => exact h ▸ s.encodeWord_check k
  case isFalse h => exact s.encodeWord_byte_other k h

theorem State.setByte_byte (s : State) (i j : BufIndex) (v : Byte) :
    (s.setByte i v).byte j = if i = j then v else s.byte j := by
  split
  case isTrue h => exact h ▸ s.setByte_byte_same i v
  case isFalse h => exact s.setByte_byte_other i j v h

/-- An input that goes on leaves the buffer that its own write to B gives. -/
theorem Served.byte_eq {s t : State} {x : HostInput} (h : Served s x t) (j : BufIndex) :
    t.byte j = bytesAfter s.byte x j := by
  cases h with
  | @operation v i t hv ht =>
    have hissues : issuesOperation (.write (slotOf .ctrl) v) = some i := issuesOperation_eq_some_iff.2 ⟨rfl, hv⟩
    by_cases hencode : ∃ n, i = .dwEncode n
    · obtain ⟨n, rfl⟩ := hencode
      obtain ⟨k, rfl⟩ := exists_wordIndex_of_encode hissues
      rw [bytesAfter_of_encode j hissues, ht.eq_encodeWord, State.encodeWord_byte]
    · have hnot (n : Nibble) : i ≠ .dwEncode n := fun hi => hencode ⟨n, hi⟩
      rw [bytesAfter_of_not_encode j (by simpa [hissues] using hnot), if_neg, State.byte, ht.buf_eq fun k => hnot _]
      · rfl
      · rw [writesByte_eq_some_iff]
        exact fun hslot => nomatch slotOf_injective hslot
  | @illegalValue v e hv =>
    rw [bytesAfter_of_not_encode j (by simp [issuesOperation_ctrl, hv, Except.toOption]), if_neg]
    · rfl
    · rw [writesByte_eq_some_iff]
      exact fun hslot => nomatch slotOf_injective hslot
  | byte i v =>
    have hnot (n : Nibble) : issuesOperation (.write (slotOf (.b i)) v) ≠ some (.dwEncode n) := fun hi =>
      nomatch slotOf_injective (issuesOperation_eq_some_iff.1 hi).1
    rw [bytesAfter_of_not_encode j hnot, State.setByte_byte]
    simp [writesByte]
  | @ignored a v ha =>
    have hnot (n : Nibble) : issuesOperation (.write a v) ≠ some (.dwEncode n) := fun hi =>
      (ha _ (issuesOperation_eq_some_iff.1 hi).1.symm).1 rfl
    rw [bytesAfter_of_not_encode j hnot, if_neg]
    exact fun hbyte => (ha _ (writesByte_eq_some_iff.1 hbyte).symm).2 j rfl
  | read | reset => rfl

theorem serveAll_byte (xs : List HostInput) (s : State) : (serveAll xs s).byte = bytesAfterAll s.byte xs := by
  induction xs generalizing s with
  | nil => rfl
  | cons x xs ih =>
    obtain ⟨t, ht⟩ := exists_served s x
    rw [serveAll_cons _ _ _ _ ht.serve_eq, ih, funext ht.byte_eq, bytesAfterAll_cons]

/-- Without DW_ENCODE, what the inputs leave at an index is the last write there. -/
theorem bytesAfterAll_eq_lastWritten {xs : List HostInput}
    (h : ∀ x ∈ xs, ∀ k, issuesOperation x ≠ some (.dwEncode k)) (b : BufIndex → Byte) (i : BufIndex) :
    bytesAfterAll b xs i = lastWritten i (b i) xs := by
  induction xs generalizing b with
  | nil => rfl
  | cons x xs ih =>
    rw [bytesAfterAll_cons, ih fun y hy => h y (List.mem_cons_of_mem x hy)]
    cases x with
    | read | reset => rfl
    | write a v => rw [lastWritten, bytesAfter_of_not_encode i (h _ List.mem_cons_self)]

/-! ### The bytes an operation reads (R71, R138) -/

theorem readsByte_of_checksWord {i : Instr} {k : WordIndex} (hk : checksWord i k = true) {j : BufIndex}
    (hj : j.val / 3 = k.val) : readsByte i j = true := by
  cases i with
  | nop | crcCalc | crcAcc | dwEncode => cases hk
  | dwCheck n =>
    have hn : k.val = n.toNat := of_decide_eq_true hk
    simp only [readsByte, Bool.and_eq_true, decide_eq_true_eq]
    omega
  | frameCheck n =>
    obtain ⟨hhi, hlt⟩ : n.toNat ≤ 4 ∧ k.val < n.toNat := by simpa [checksWord] using hk
    simp only [readsByte, Bool.and_eq_true, decide_eq_true_eq]
    omega
  | measExtract => rfl
  | pidExtract =>
    have hlt : k.val < 2 := of_decide_eq_true hk
    exact decide_eq_true (by omega)

theorem readsByte_dwEncode (k : WordIndex) :
    readsByte (.dwEncode (BitVec.ofNat 4 k.val)) (hiIndex k) = true ∧
      readsByte (.dwEncode (BitVec.ofNat 4 k.val)) (loIndex k) = true := by
  revert k; decide

theorem div_three_index (k : WordIndex) :
    (hiIndex k).val / 3 = k.val ∧ (loIndex k).val / 3 = k.val ∧ (checkIndex k).val / 3 = k.val := by
  simp only [hiIndex, loIndex, checkIndex]
  omega

/-- A word is valid, and has its payload, by its three bytes alone. -/
theorem State.word_congr {s u : State} {k : WordIndex} (h : ∀ j : BufIndex, j.val / 3 = k.val → u.byte j = s.byte j) :
    u.payload k = s.payload k ∧ u.valid k = s.valid k := by
  obtain ⟨hhi, hlo, hcheck⟩ := div_three_index k
  simp only [State.payload_eq, State.valid, State.payloadCrc, State.check_eq, h _ hhi, h _ hlo, h _ hcheck, and_self]

/-! ### What the results of a check depend on (R138)

What a check leaves in the registers it can write depends on those registers and on the words it checks. -/

section
variable {s u : State} {i : Instr}

theorem State.checkedWord_congr (hbytes : ∀ j, readsByte i j = true → u.byte j = s.byte j) {k : WordIndex}
    (hk : checksWord i k = true) : u.payload k = s.payload k ∧ u.valid k = s.valid k :=
  State.word_congr fun j hj => hbytes j (readsByte_of_checksWord hk hj)

theorem State.checkMask_congr (hbytes : ∀ j, readsByte i j = true → u.byte j = s.byte j) :
    u.checkMask i = s.checkMask i := by
  refine State.eq_checkMask fun k => ?_
  rw [State.checkMask_bit]
  cases hk : checksWord i k with
  | false => simp only [Bool.false_and]
  | true => rw [(State.checkedWord_congr hbytes hk).2]

theorem State.matchesId_congr (hbytes : ∀ j, readsByte i j = true → u.byte j = s.byte j) :
    u.matchesId i = s.matchesId i := by
  by_cases hi : i = .pidExtract
  · subst hi
    have hpayload (k : WordIndex) (hk : k.val < 2) : u.payload k = s.payload k :=
      (State.checkedWord_congr hbytes (decide_eq_true hk)).1
    simp only [State.matchesId, State.assembledId_eq_payloads, hpayload 0 (by decide), hpayload 1 (by decide)]
  · simp only [State.matchesId, hi, decide_false, Bool.false_and]

theorem State.SameResults.accepted (h : s.SameResults u) (hbytes : ∀ j, readsByte i j = true → u.byte j = s.byte j) :
    (s.accepted i).SameResults (u.accepted i) := by
  have hmeas (hi : i = .measExtract) (k : WordIndex) : u.payload k = s.payload k :=
    (State.checkedWord_congr hbytes (hi ▸ rfl)).1
  have hpid (hi : i = .pidExtract) (k : WordIndex) (hk : k.val < 2) : u.payload k = s.payload k :=
    (State.checkedWord_congr hbytes (hi ▸ decide_eq_true hk)).1
  refine ⟨congrArg statusIdentified (State.matchesId_congr hbytes), congrArg Vector.ofFn (funext fun k => ?_), ?_, ?_, ?_,
    ?_, ?_⟩
  · exact ite_congr rfl (fun hk => (State.checkedWord_congr hbytes hk).1) fun _ => by rw [h.word]
  · exact ite_congr rfl (hmeas · 0) fun _ => h.co2
  · exact ite_congr rfl (hmeas · 1) fun _ => h.traw
  · exact ite_congr rfl (hmeas · 2) fun _ => h.hraw
  · exact ite_congr rfl (hmeas · 3) fun _ => h.mstat
  · refine ite_congr rfl (fun hi => ?_) fun _ => h.pid
    rw [State.assembledId_eq_payloads, State.assembledId_eq_payloads, hpid hi 0 (by decide), hpid hi 1 (by decide)]

theorem State.SameResults.rejected (h : s.SameResults u) (hbytes : ∀ j, readsByte i j = true → u.byte j = s.byte j) :
    (s.rejected i).SameResults (u.rejected i) :=
  { h with
    status := congrArg statusChecksumError (State.checkMask_congr hbytes)
    pid := ite_congr rfl (fun _ => rfl) fun _ => h.pid }

/-- A check has the same results on the same words, and no other operation reads a byte to write one of these registers. -/
theorem Effect.exists_sameResults {t : State} (ht : Effect s i t) (h : s.SameResults u)
    (hbytes : isChecking i = true → ∀ j, readsByte i j = true → u.byte j = s.byte j) :
    ∃ v, Effect u i v ∧ t.SameResults v := by
  cases ht with
  | illegal hw => exact ⟨_, .illegal hw, h.setStatus _⟩
  | nop => exact ⟨_, .nop, h⟩
  | crcCalc hn => exact ⟨_, .crcCalc hn, (h.setCrc _ _).setStatus _⟩
  | crcAcc hn => exact ⟨_, .crcAcc hn, (h.setCrc _ _).setStatus _⟩
  | dwEncode k => exact ⟨_, .dwEncode k, (h.setByte _ _ _).setStatus _⟩
  | accepted hc hw hmask =>
    exact ⟨_, .accepted hc hw ((State.checkMask_congr (hbytes hc)).trans hmask), h.accepted (hbytes hc)⟩
  | rejected hc hw hmask =>
    exact ⟨_, .rejected hc hw ((State.checkMask_congr (hbytes hc)).trans_ne hmask), h.rejected (hbytes hc)⟩

end

/-- An operation on a buffer that agrees on the bytes it reads: every register is the same, and every byte that was. -/
theorem Effect.exists_withBuf {s t : State} {i : Instr} (ht : Effect s i t) {m : Memory}
    (hbytes : ∀ j, readsByte i j = true → m.read j = s.byte j) :
    ∃ u, Effect { s with buf := m } i u ∧ { u with buf := t.buf } = t ∧
      ∀ j, m.read j = s.byte j → u.byte j = t.byte j := by
  have hsame : s.SameResults { s with buf := m } := ⟨rfl, rfl, rfl, rfl, rfl, rfl, rfl⟩
  have hmask : State.checkMask { s with buf := m } i = s.checkMask i := State.checkMask_congr hbytes
  have hlist {n : Nat} (hn : ∀ j : BufIndex, j.val < n → readsByte i j = true) :
      State.bytes { s with buf := m } n = s.bytes n := State.bytes_congr _ _ _ fun j hj => hbytes j (hn j hj)
  cases ht with
  | illegal hw => exact ⟨_, .illegal hw, rfl, fun _ hj => hj⟩
  | nop => exact ⟨_, .nop, rfl, fun _ hj => hj⟩
  | @crcCalc n hn =>
    have hread := hlist (n := n.toNat) fun j hj => by simp [readsByte, hn, hj]
    exact ⟨_, .crcCalc hn, by rw [hread]; rfl, fun _ hj => hj⟩
  | @crcAcc n hn =>
    have hread := hlist (n := n.toNat) fun j hj => by simp [readsByte, hn, hj]
    exact ⟨_, .crcAcc hn, by rw [hread]; rfl, fun _ hj => hj⟩
  | dwEncode k =>
    obtain ⟨hhi, hlo⟩ := readsByte_dwEncode k
    refine ⟨_, .dwEncode k, rfl, fun j hj => ?_⟩
    rw [State.encodeWord_byte, State.encodeWord_byte]
    exact ite_congr rfl (fun _ => congrArg₂ (fun b c => crc8 [b, c]) (hbytes _ hhi) (hbytes _ hlo)) fun _ => hj
  | accepted hc hw hzero =>
    exact ⟨_, .accepted hc hw (hmask.trans hzero),
      (hsame.accepted hbytes).withBuf_eq rfl rfl rfl, fun _ hj => hj⟩
  | rejected hc hw hne =>
    exact ⟨_, .rejected hc hw (hmask.trans_ne hne),
      (hsame.rejected hbytes).withBuf_eq rfl rfl rfl, fun _ hj => hj⟩

/-! ### The host's duty to load (R138, log entry 14) -/

theorem readsLoaded_iff {loaded : BufIndex → Bool} {i : Instr} :
    readsLoaded loaded i = true ↔ ∀ j, readsByte i j = true → loaded j = true := by
  simp only [readsLoaded, List.all_eq_true, List.mem_finRange, true_implies, Bool.or_eq_true, Bool.not_eq_true',
    ← Bool.not_eq_true, ← imp_iff_not_or]

/-- The bytes that count as loaded after an input depend on no byte but those loaded before it. -/
theorem bytesAfter_congr {loaded : BufIndex → Bool} {b c : BufIndex → Byte} (h : ∀ j, loaded j = true → b j = c j)
    {x : HostInput} {j : BufIndex} (hj : loadedAfter loaded x j = true) : bytesAfter b x j = bytesAfter c x j := by
  cases x with
  | reset => rfl
  | read => exact h j hj
  | write a v =>
    by_cases hencode : ∃ n, issuesOperation (.write a v) = some (.dwEncode n)
    · obtain ⟨n, hn⟩ := hencode
      obtain ⟨k, rfl⟩ := exists_wordIndex_of_encode hn
      rw [loadedAfter_of_encode j hn] at hj
      rw [bytesAfter_of_encode j hn, bytesAfter_of_encode j hn]
      refine ite_congr rfl (fun hcheck => ?_) fun hother => h j (by rwa [if_neg hother] at hj)
      obtain ⟨hhi, hlo⟩ := readsByte_dwEncode k
      rw [if_pos hcheck, readsLoaded_iff] at hj
      rw [h _ (hj _ hhi), h _ (hj _ hlo)]
    · have hnot (n : Nibble) : issuesOperation (.write a v) ≠ some (.dwEncode n) := fun hn => hencode ⟨n, hn⟩
      rw [loadedAfter_of_not_encode j hnot, Bool.or_eq_true, beq_iff_eq] at hj
      rw [bytesAfter_of_not_encode j hnot, bytesAfter_of_not_encode j hnot]
      exact ite_congr rfl (fun _ => rfl) fun hwrites => h j (hj.resolve_right hwrites)

theorem loadsBeforeChecks_cons {loaded : BufIndex → Bool} {x : HostInput} {xs : List HostInput} :
    loadsBeforeChecks loaded (x :: xs) = true ↔
      (∀ i, issuesOperation x = some i → isChecking i = true → readsLoaded loaded i = true) ∧
        loadsBeforeChecks (loadedAfter loaded x) xs = true := by
  rw [loadsBeforeChecks, Bool.and_eq_true]
  refine and_congr_left' ?_
  cases issuesOperation x with
  | none => simp
  | some i => cases hc : isChecking i <;> simp [hc]

/-- An input whose check, if it issues one, reads bytes that agree has the same results. -/
theorem Served.exists_sameResults {s t u : State} {x : HostInput} (ht : Served s x t) (h : s.SameResults u)
    (hbytes : ∀ i, issuesOperation x = some i → isChecking i = true → ∀ j, readsByte i j = true → u.byte j = s.byte j) :
    ∃ v, Served u x v ∧ t.SameResults v := by
  cases ht with
  | operation hv ht =>
    obtain ⟨v, heffect, hsame⟩ := ht.exists_sameResults h (hbytes _ (issuesOperation_eq_some_iff.2 ⟨rfl, hv⟩))
    exact ⟨v, .operation hv heffect, hsame⟩
  | illegalValue hv => exact ⟨_, .illegalValue hv, h.setStatus _⟩
  | byte i v => exact ⟨_, .byte i v, h.setByte _ _ _⟩
  | ignored v ha => exact ⟨_, .ignored v ha, h⟩
  | read a => exact ⟨_, .read a, { h with }⟩
  | reset => exact ⟨_, .reset, ⟨rfl, rfl, rfl, rfl, rfl, rfl, rfl⟩⟩

/-- Under the duty, states that agree on the bytes loaded and in their results still do after the inputs. -/
theorem serveAll_sameResults {loaded : BufIndex → Bool} {xs : List HostInput}
    (hduty : loadsBeforeChecks loaded xs = true) {s u : State} (h : s.SameResults u)
    (hbytes : ∀ j, loaded j = true → u.byte j = s.byte j) : (serveAll xs s).SameResults (serveAll xs u) := by
  induction xs generalizing loaded s u with
  | nil => exact h
  | cons x xs ih =>
    obtain ⟨hx, hxs⟩ := loadsBeforeChecks_cons.1 hduty
    obtain ⟨t, ht⟩ := exists_served s x
    obtain ⟨v, hv, hsame⟩ := ht.exists_sameResults h fun i hi hc j hj => hbytes j (readsLoaded_iff.1 (hx i hi hc) j hj)
    rw [serveAll_cons _ _ _ _ ht.serve_eq, serveAll_cons _ _ _ _ hv.serve_eq]
    refine ih hxs hsame fun j hj => ?_
    rw [ht.byte_eq, hv.byte_eq]
    exact bytesAfter_congr hbytes hj

/-! ### A word written by the host (R75) -/

/-- The three bytes of word k written as LOADW writes them. -/
def State.loadWord (s : State) (k : WordIndex) (hi lo c : Byte) : State :=
  ((s.setByte (hiIndex k) hi).setByte (loIndex k) lo).setByte (checkIndex k) c

theorem State.loadWord_valid_iff (s : State) (k : WordIndex) (hi lo c : Byte) :
    (s.loadWord k hi lo c).valid k = true ↔ crc8 [hi, lo] = c := by
  rw [State.loadWord, State.setByte_checkIndex_valid_iff, State.payloadCrc, State.setByte_byte_same,
    State.setByte_byte_other _ _ _ _ (loIndex_ne_hiIndex k), State.setByte_byte_same, eq_comm]

theorem State.loadWord_setByte_check (s : State) (k : WordIndex) (hi lo c d : Byte) :
    (s.loadWord k hi lo c).setByte (checkIndex k) d = s.loadWord k hi lo d := by
  simp only [State.loadWord, State.setByte, Memory.write_write_same]

theorem serveAll_writeB (i : BufIndex) (v : Byte) (xs : List HostInput) (s : State) :
    serveAll (writeB i v :: xs) s = serveAll xs (s.setByte i v) :=
  serveAll_cons _ _ _ _ (serve_writeB i v s)

theorem serveAll_loadValidWord (k : WordIndex) (hi lo : Byte) (s : State) :
    serveAll (loadValidWord k hi lo) s = s.loadWord k hi lo (crc8 [hi, lo]) := by
  simp only [loadValidWord, serveAll_writeB, serveAll_nil, State.loadWord]

/-- STATUS reads as itself where it is a value of the code table (R31). -/
theorem readValue_status_of_legal {s : State} (h : legalStatus s.status) : readValue s 0x01#5 = s.status := by
  have hmasks : ∀ mask : Nibble,
      zext 32 (field (0x00000002#32 ||| (zext 32 mask <<< 4)) 0 8) = 0x00000002#32 ||| (zext 32 mask <<< 4) := by decide
  rw [readValue_status]
  rcases h with h | h | h | h | ⟨mask, -, h⟩ <;> rw [h]
  · rfl
  · rfl
  · rfl
  · rfl
  · exact hmasks mask

/-- The host's check reads the STATUS that DW_CHECK leaves, where that is a value of the code table. -/
theorem serveAll_checkAndReadStatus {k : WordIndex} {s t : State}
    (h : exec (.dwCheck (BitVec.ofNat 4 k.val)) s = .next t) (ht : legalStatus t.status) :
    (serveAll (checkAndReadStatus k) s).reads = s.reads ++ [t.status] := by
  have hserve : serve (.write (slotOf .ctrl) (encode (.dwCheck (BitVec.ofNat 4 k.val)))) s = .next t := by
    rw [serve_write_ctrl, issue_encode (wellFormed_dwCheck k), h]
  rw [checkAndReadStatus, serveAll_cons _ _ _ _ hserve, serveAll_cons _ _ _ _ rfl, serveAll_nil, State.pushRead_reads,
    (exec_eq_next_iff.1 h).sameHost.2, ← readValue_status_of_legal ht]
  rfl

theorem checkAndReadStatus_of_valid {k : WordIndex} {s : State} (h : s.valid k = true) :
    (serveAll (checkAndReadStatus k) s).reads = s.reads ++ [0x00000001#32] :=
  serveAll_checkAndReadStatus (exec_dwCheck_of_valid h) (.inr (.inl rfl))

/-- STATUS after DW_CHECK k of an invalid word, as the statements write it (R91). -/
theorem oneWordStatus_eq : ∀ k : WordIndex,
    zext 32 (concat (0x1#4 <<< k.val) 0b0010#4) = 0x00000002#32 ||| (0x00000010#32 <<< k.val) := by decide

theorem checkAndReadStatus_of_invalid {k : WordIndex} {s : State} (h : s.valid k = false) :
    (serveAll (checkAndReadStatus k) s).reads = s.reads ++ [0x00000002#32 ||| (0x00000010#32 <<< k.val)] := by
  rw [← oneWordStatus_eq]
  refine serveAll_checkAndReadStatus (exec_dwCheck_of_invalid h) ?_
  rw [← statusChecksumError_eq]
  exact legalStatus_statusChecksumError (oneBit_ne_zero k)

/-! ### Interleavings of two hosts (R62, log entry 9) -/

theorem interleaving_nil_right (xs : List HostInput) : Interleaving xs [] xs := by
  induction xs with
  | nil => exact .done
  | cons x xs ih => exact .first ih

/-- A host of one access may make it at any point of the other's list. -/
theorem interleaving_insert (xs ys : List HostInput) (y : HostInput) : Interleaving (xs ++ ys) [y] (xs ++ y :: ys) := by
  induction xs with
  | nil => exact .second (interleaving_nil_right ys)
  | cons x xs ih => exact .first ih

/-! ### A valid word with an error in one byte (R86) -/

theorem index_cases {i : BufIndex} {k : WordIndex} (h : i.val / 3 = k.val) :
    i = hiIndex k ∨ i = loIndex k ∨ i = checkIndex k := by
  simp only [Fin.ext_iff, hiIndex, loIndex, checkIndex]
  omega

theorem State.setByte_xor_invalid {s : State} {k : WordIndex} {i : BufIndex} {e : Byte} (hvalid : s.valid k = true)
    (hi : i.val / 3 = k.val) (he : e ≠ 0) : (s.setByte i (s.byte i ^^^ e)).valid k = false := by
  rw [State.valid_iff] at hvalid
  rw [State.valid_eq_false_iff]
  rcases index_cases hi with rfl | rfl | rfl
  · rw [State.setByte_byte_same, State.setByte_byte_other _ _ _ _ (loIndex_ne_hiIndex k).symm,
      State.setByte_byte_other _ _ _ _ (checkIndex_ne_hiIndex k).symm]
    simpa using crc8_ne_of_one_byte_changed hvalid (.inl ⟨he, rfl, rfl⟩)
  · rw [State.setByte_byte_same, State.setByte_byte_other _ _ _ _ (loIndex_ne_hiIndex k),
      State.setByte_byte_other _ _ _ _ (checkIndex_ne_loIndex k).symm]
    simpa using crc8_ne_of_one_byte_changed hvalid (.inr (.inl ⟨rfl, he, rfl⟩))
  · rw [State.setByte_byte_same, State.setByte_byte_other _ _ _ _ (checkIndex_ne_hiIndex k),
      State.setByte_byte_other _ _ _ _ (checkIndex_ne_loIndex k)]
    simpa using crc8_ne_of_one_byte_changed hvalid (.inr (.inr ⟨rfl, rfl, he⟩))

theorem oneBitOfByte_ne_zero : ∀ j : Fin 8, 1#8 <<< j.val ≠ 0 := by decide

/-- A rejected check but PID_EXTRACT writes STATUS alone. -/
theorem State.rejected_of_ne (s : State) {i : Instr} (h : i ≠ .pidExtract) :
    s.rejected i = { s with status := (s.rejected i).status } := by
  simp only [State.rejected, if_neg h]

/-- What a rejected check shows of an invalid word among those it checks. -/
theorem exec_rejects {i : Instr} {k : WordIndex} {s : State} (hk : checksWord i k = true) (h : s.valid k = false) :
    exec i s = .next (s.rejected i) ∧ statusOk (s.rejected i).status = false ∧
      (statusWfail (s.rejected i).status).getLsbD k.val = true :=
  ⟨exec_of_invalid hk h, (s.rejected_flags i).1, by rw [State.rejected_wfail, hk, h]; rfl⟩

/-! ### The window at a base (R56, log entry 4) -/

theorem slotAtHostAddress_eq_some_iff {base addr : Nat} {a : Slot} :
    slotAtHostAddress base addr = some a ↔ addr = hostAddress base a := by
  have hlt : a.toNat < 32 := a.isLt
  unfold slotAtHostAddress hostAddress
  split
  case isTrue hin =>
    rw [Option.some.injEq, ← BitVec.toNat_inj, BitVec.toNat_ofNat, Nat.mod_eq_of_lt (by omega)]
    omega
  case isFalse hout =>
    simp only [reduceCtorEq, false_iff]
    omega

/-! ### The statements: encoding -/

/-- Settles O1: `decode_encode`, and the decoder gives no ill-formed operation. -/
theorem decodeOfEncodeGivesTheInstruction : Obligations.DecodeOfEncodeGivesTheInstruction :=
  fun _ => ⟨decode_encode, decode_wellFormed⟩

/-- Settles O2. -/
theorem encodeOfDecodeGivesTheWord : Obligations.EncodeOfDecodeGivesTheWord :=
  fun _ _ h => ⟨decode_wellFormed h, encode_of_decode h⟩

/-- Settles O6: each word is the encoding of its operation, which is well formed. -/
theorem sampleWordsDecode : Obligations.SampleWordsDecode :=
  ⟨decode_encode (i := .nop) rfl, decode_encode (i := .crcCalc 12) rfl, decode_encode (i := .crcAcc 2) rfl,
    decode_encode (i := .dwEncode 3) rfl, decode_encode (i := .dwCheck 3) rfl, decode_encode (i := .frameCheck 4) rfl,
    decode_encode (i := .measExtract) rfl, decode_encode (i := .pidExtract) rfl⟩

/-- Settles O7: `assemble_eq_ite`, with each operation's legal operands. -/
theorem assemblerRefusesIllegalOperands : Obligations.AssemblerRefusesIllegalOperands := by
  have hword (k : Nibble) : decide (k.toNat < 4) = true ↔ k.toNat ≤ 3 := decide_eq_true_iff.trans Nat.lt_succ_iff
  refine ⟨rfl, rfl, rfl, fun n => assemble_eq_ite (i := .crcCalc n) decide_eq_true_iff,
    fun n => assemble_eq_ite (i := .crcAcc n) decide_eq_true_iff, fun k => assemble_eq_ite (i := .dwEncode k) (hword k),
    fun k => assemble_eq_ite (i := .dwCheck k) (hword k), fun n => assemble_eq_ite (i := .frameCheck n) ?frame,
    fun _ _ => decode_of_assemble⟩
  case frame => simp only [Instr.wellFormed, Bool.and_eq_true, decide_eq_true_eq]

/-- Settles O12. -/
theorem registerMapIsOneToOne : Obligations.RegisterMapIsOneToOne :=
  ⟨regAt_slotOf, fun _ _ => slotOf_of_regAt, regAt_eq_none_iff⟩

/-- Settles O17: an address names slot `a` exactly when it is that slot's. -/
theorem hostAddressesAreOffsetsFromTheBase : Obligations.HostAddressesAreOffsetsFromTheBase :=
  ⟨fun _ _ => slotAtHostAddress_eq_some_iff.2 rfl, fun _ _ _ => slotAtHostAddress_eq_some_iff.1,
    fun _ _ hout => if_neg (by omega), fun _ => slotAtHostAddress_eq_some_iff.2 rfl⟩

/-! ### The statements: the host port and one step -/

/-- Settles O8. -/
theorem stepRunsTheDecodedOperation : Obligations.StepRunsTheDecodedOperation := by
  have hstep {s : State} {v : Word} {rest : List HostInput} (hp : s.pending = .write 0x00#5 v :: rest) :
      step s = issue v (s.setPending rest) :=
    (step_of_pending_cons hp).trans (serve_write_ctrl v _)
  exact ⟨fun s v rest i hp hv => (hstep hp).trans (issue_of_decode_ok hv _),
    fun s v rest e hp hv => (hstep hp).trans (issue_of_decode_error hv _)⟩

/-- Settles O9. -/
theorem stepOnAReadHasNoSideEffect : Obligations.StepOnAReadHasNoSideEffect :=
  fun _ _ _ hp => step_of_pending_cons hp

/-- Settles O10, register by register of R42's table. -/
theorem stepOnResetSetsEveryRegister : Obligations.StepOnResetSetsEveryRegister :=
  fun s rest hp => ⟨resetBlock (s.setPending rest), step_of_pending_cons hp, rfl, rfl, State.reset_byte, State.reset_word,
    rfl, rfl, rfl, rfl, rfl, rfl, rfl⟩

/-- Settles O13: each slot below 0x19 is a register's, and reads as that register. -/
theorem hostReadValues : Obligations.HostReadValues := fun s =>
  ⟨readValue_ctrl s, readValue_status_of_legal, readValue_slotOf s .crc, readValue_expid s,
    fun i => readValue_slotOf s (.b i), fun k => readValue_slotOf s (.word k), readValue_slotOf s .co2,
    readValue_slotOf s .traw, readValue_slotOf s .hraw, readValue_slotOf s .mstat, readValue_slotOf s .pid,
    fun _ h => readValue_of_reserved h s⟩

/-- Settles O16. -/
theorem otherHostWritesAreIgnored : Obligations.OtherHostWritesAreIgnored :=
  fun s _ v h => writeSlot_of_ignoresWrites (ignoresWrites_of_toNat h) v s

/-- Settles O18: a step does nothing or performs one input, and no input breaks the invariant. -/
theorem stepKeepsTheInvariant : Obligations.StepKeepsTheInvariant := by
  intro s t hs hstep
  rcases step_cases hstep with ⟨-, rfl⟩ | ⟨x, rest, -, hserved⟩
  · exact hs
  · exact hserved.inv hs

/-- Settles O19. -/
theorem resetMeetsTheInvariant : Obligations.ResetMeetsTheInvariant := ⟨State.reset_buf_wf, .inl rfl⟩

/-- Settles O20: the cells of a canonical buffer are what it reads as, and their order is fixed. -/
theorem canonicalBuffersThatReadTheSameAreEqual : Obligations.CanonicalBuffersThatReadTheSameAreEqual :=
  fun _ _ => Memory.eq_of_wf_of_read_eq

/-- Settles O21. -/
theorem everyStepGoesOn : Obligations.EveryStepGoesOn := step_goesOn

/-! ### The statements: runs -/

/-- Settles O22, by induction on the inputs. -/
theorem runPerformsTheInputsInOrder : Obligations.RunPerformsTheInputsInOrder :=
  fun s => run_eq_serveAll s.pending s

/-- Settles O23: the run performs the inputs in order (O22), and each read among them adds one value. -/
theorem runAnswersEveryRead : Obligations.RunAnswersEveryRead := by
  intro s
  obtain ⟨hpending, hreads⟩ := serveAll_host s.pending (s.setPending [])
  exact ⟨_, run_eq_serveAll s.pending s, hpending, hreads⟩

/-- Settles O24: the buffer is the replay of the inputs' own writes, which without DW_ENCODE is the last one. -/
theorem bufferHoldsTheLastWrittenByte : Obligations.BufferHoldsTheLastWrittenByte := by
  have hread (s : State) (i : BufIndex) : readValue s (slotOf (.b i)) = zext 32 (s.byte i) := readValue_slotOf s (.b i)
  refine ⟨fun xs s i hencode => ?_, fun xs s i => ?_⟩
  · rw [hread, serveAll_byte, bytesAfterAll_eq_lastWritten hencode]
    exact ⟨rfl, rfl⟩
  · rw [hread, serveAll_byte]
    exact ⟨rfl, rfl⟩

/-- Settles O25: the check sees the first host's word in both serial orders, and the second host's check byte in the race. -/
theorem interleavedHostsRace : Obligations.InterleavedHostsRace := by
  intro s k hi lo c hc
  have hfirst (u : State) : (serveAll (loadValidWord k hi lo ++ checkAndReadStatus k) u).reads =
      u.reads ++ [0x00000001#32] := by
    rw [serveAll_append, serveAll_loadValidWord]
    exact checkAndReadStatus_of_valid ((u.loadWord_valid_iff k hi lo _).2 rfl)
  refine ⟨?_, interleaving_insert [] _ _, ?_, ?_, ?_, ?_⟩
  · simpa using interleaving_insert (loadValidWord k hi lo ++ checkAndReadStatus k) [] (writeB (checkIndex k) c)
  · simpa using interleaving_insert (loadValidWord k hi lo) (checkAndReadStatus k) (writeB (checkIndex k) c)
  · rw [serveAll_append, serveAll_writeB, serveAll_nil, State.setByte_reads, hfirst]
  · rw [List.singleton_append, serveAll_writeB, hfirst, State.setByte_reads]
  · have hinvalid : (s.loadWord k hi lo c).valid k = false := by
      rw [← Bool.not_eq_true, State.loadWord_valid_iff]
      exact hc.symm
    rw [serveAll_append, serveAll_append, serveAll_loadValidWord, serveAll_writeB, serveAll_nil,
      State.loadWord_setByte_check]
    exact checkAndReadStatus_of_invalid hinvalid

/-- Settles O59: the two states agree in every result, and no byte is loaded yet. -/
theorem loadedChecksIgnoreTheOldBuffer : Obligations.LoadedChecksIgnoreTheOldBuffer := by
  intro xs s m hduty
  have hsame : s.SameResults { s with buf := m } := ⟨rfl, rfl, rfl, rfl, rfl, rfl, rfl⟩
  obtain ⟨hstatus, hword, hco2, htraw, hhraw, hmstat, hpid⟩ :=
    serveAll_sameResults hduty hsame fun _ hloaded => absurd hloaded Bool.false_ne_true
  exact ⟨hstatus.symm, hword.symm, hco2.symm, htraw.symm, hhraw.symm, hmstat.symm, hpid.symm⟩

/-- Settles O60: GENW expands to the two payload writes and DW_ENCODE, after which the word is valid (R85). -/
theorem genwBuildsAValidWord : Obligations.GenwBuildsAValidWord := by
  intro s k hi lo
  have hwf : (Instr.dwEncode (BitVec.ofNat 4 k.val)).wellFormed = true :=
    decide_eq_true ((toNat_ofNat_wordIndex k).trans_lt k.isLt)
  obtain ⟨x, hx, hserve⟩ := issueOp_spec hwf
  refine ⟨[writeB (hiIndex k) hi, writeB (loIndex k) lo, x], by rw [expandLine, hx]; rfl, ?_⟩
  rw [serveAll_writeB, serveAll_writeB, serveAll_cons _ _ _ _ ((hserve _).trans (exec_dwEncode k _)), serveAll_nil]
  refine ⟨?_, ?_, State.encodeWord_valid _ k, fun j hj => ?_⟩
  · rw [State.encodeWord_byte_other _ k (checkIndex_ne_hiIndex k).symm,
      State.setByte_byte_other _ _ _ _ (loIndex_ne_hiIndex k), State.setByte_byte_same]
  · rw [State.encodeWord_byte_other _ k (checkIndex_ne_loIndex k).symm, State.setByte_byte_same]
  · obtain ⟨hhi, hlo, hcheck⟩ := div_three_index k
    have hne {i : BufIndex} (hi : i.val / 3 = k.val) : i ≠ j := fun heq => hj (heq ▸ hi)
    rw [State.encodeWord_byte_other _ k (hne hcheck).symm, State.setByte_byte_other _ _ _ _ (hne hlo),
      State.setByte_byte_other _ _ _ _ (hne hhi)]

/-! ### The statements: every operation -/

/-- Settles O5. -/
theorem illFormedOperationsRaiseIllegalOperation : Obligations.IllFormedOperationsRaiseIllegalOperation :=
  fun _ s h => exec_of_illFormed h s

/-- Settles O31. -/
theorem checksumIsAffine : Obligations.ChecksumIsAffine := fun c₁ c₂ _ _ h => crc8From_xor h c₁ c₂

/-- Settles O35: the flip makes the word invalid, and each of the checks rejects an invalid word among its own. -/
theorem singleBitFlipsAreRejectedByEveryCheck : Obligations.SingleBitFlipsAreRejectedByEveryCheck := by
  intro s k i j hvalid hi
  have hinvalid := State.setByte_xor_invalid hvalid hi (oneBitOfByte_ne_zero j)
  refine ⟨?_, fun n hn => ?_, ?_, fun hk => ?_⟩
  · rw [exec_dwCheck_of_invalid hinvalid, oneWordStatus_eq]
  · have hnum : (BitVec.ofNat 4 n.val).toNat = n.val := Nat.mod_eq_of_lt (by omega)
    have hchecks : checksWord (.frameCheck (BitVec.ofNat 4 n.val)) k = true := by
      simp only [checksWord, hnum, Bool.and_eq_true, decide_eq_true_eq]
      omega
    obtain ⟨hexec, hok, hwfail⟩ := exec_rejects hchecks hinvalid
    exact ⟨_, hexec, hok, hwfail, State.rejected_of_ne _ nofun⟩
  · obtain ⟨hexec, hok, hwfail⟩ := exec_rejects (i := .measExtract) rfl hinvalid
    exact ⟨_, hexec, hok, hwfail, State.rejected_of_ne _ nofun⟩
  · obtain ⟨hexec, hok, hwfail⟩ := exec_rejects (i := .pidExtract) (decide_eq_true hk) hinvalid
    exact ⟨_, hexec, hok, hwfail, rfl⟩

/-- Settles O45: an accepted frame sets ID_MATCH by comparing the ID it writes to PID, a rejected one clears both bits. -/
theorem idMatchExactlyOnEqualIds : Obligations.IdMatchExactlyOnEqualIds := by
  intro expid s
  by_cases hmask : s.failMask 2 = 0x0#4
  · obtain ⟨h0, h1⟩ := s.failMask_two_eq_zero_iff.1 hmask
    obtain ⟨hok, -, hmatch, -⟩ := fields_statusWord true false (s.assembledId == expid) false 0x0#4
    rw [extractProductId_of_valid expid h0 h1, acceptProductId, State.setStatus_status, State.setStatus_pid,
      State.setPid_pid, statusIdentified, hok, hmatch, beq_iff_eq, eq_self_iff_true, true_and]
  · obtain ⟨hok, -, hmatch, -⟩ := fields_statusWord false true false false (s.failMask 2)
    have hstatus : (extractProductId expid s).status = statusChecksumError (s.failMask 2) :=
      (concludeCheck_status _ _ _).trans (if_neg hmask)
    rw [hstatus, statusChecksumError, hok, hmatch]
    simp only [Bool.false_eq_true, false_and]

/-- Settles O49, clause by clause of what an effect leaves. -/
theorem operationsWriteOnlyTheirRegisters : Obligations.OperationsWriteOnlyTheirRegisters := by
  intro i s
  obtain ⟨t, ht⟩ := exists_effect s i
  refine ⟨t, ht.exec_eq, ht.sameHost, ht.crc_eq, fun j => ht.byte_eq, fun k => ht.word_eq, ht.measurement_eq,
    ht.pid_eq, ?_⟩
  rintro rfl
  exact congrArg State.status (Host.Outcome.next.inj ht.exec_eq).symm

/-- Settles O50. -/
theorem operationsReadOnlyTheirBytes : Obligations.OperationsReadOnlyTheirBytes := by
  intro i s m hbytes
  obtain ⟨t, ht⟩ := exists_effect s i
  obtain ⟨u, hu, hregs, hkept⟩ := ht.exists_withBuf hbytes
  exact ⟨t, u, ht.exec_eq, hu.exec_eq, hregs, hkept⟩

/-- Settles O51. -/
theorem checksNeitherReadNorWriteCrc : Obligations.ChecksNeitherReadNorWriteCrc := by
  intro i s c hi
  obtain ⟨t, ht⟩ := exists_effect s i
  exact ⟨t, ht.exec_eq, ht.crc_eq hi, (ht.setCrc hi c).exec_eq⟩

/-- Settles O52: an illegal value writes the whole of STATUS, and so does every operation but NOP. -/
theorem statusIsNotSticky : Obligations.StatusIsNotSticky := by
  intro v w s hnop
  cases hv : decode v with
  | error e => rw [issue_of_decode_error hv, issue_of_decode_error hv]; rfl
  | ok i =>
    obtain ⟨t, ht⟩ := exists_effect s i
    have hi : i ≠ .nop := fun h => hnop (h ▸ hv)
    rw [issue_of_decode_ok hv, issue_of_decode_ok hv, ht.exec_eq]
    exact (ht.setStatus hi w).exec_eq

/-- Settles O54. -/
theorem operationsButCrcAccAreIdempotent : Obligations.OperationsButCrcAccAreIdempotent := by
  intro i s hi
  obtain ⟨t, ht⟩ := exists_effect s i
  exact ⟨t, ht.exec_eq, (ht.again hi).exec_eq⟩

/-- Settles O55: a check with an invalid word among its own leaves `rejected`. -/
theorem rejectedChecksLeaveStaleResults : Obligations.RejectedChecksLeaveStaleResults := by
  rintro i s - ⟨k, hk, hinvalid⟩
  exact ⟨_, exec_of_invalid hk hinvalid, (s.rejected_flags i).2, rfl⟩

/-- Settles O58: the four payloads are the registers, and each is its two bytes as a big-endian number. -/
theorem measurementEndToEnd : Obligations.MeasurementEndToEnd := by
  intro s hvalid
  refine ⟨_, exec_measExtract_payloads hvalid rfl rfl rfl rfl, s.payload_toNat 0,
    congrArg (fun n : Nat => (n : Rat) * 175 / 65536 - 45) (s.payload_toNat 1),
    congrArg (fun n : Nat => (n : Rat) * 125 / 65536 - 6) (s.payload_toNat 2), s.payload_eq 3, rfl, rfl⟩

end Sys2Proof.Machine
end
